-- ==== Sys2Proof/Word.lean ====
section
/-! DEFINITION. The value types of the block: line levels, the two arrays of bits, and the register widths of
`10_state.md` rule R9. -/

namespace Sys2Proof

/-- A line level (`00_scope.md` section 4): `false` is 0 (low), `true` is 1 (high). -/
abbrev Level := Bool

/-- The frame buffer `FB[0..39]` (R12): an array of 40 cells, cell `i` captured `i`-th. -/
abbrev FrameBuffer := Vector Bool 40

/-- One bit per line, room for the 64 pin numbers a 6-bit field can name (R4: `N_PINS` is 1 to 64). -/
abbrev Lines := Vector Bool 64

/-- A pin number: the 6-bit field `cmd_word[7:2]` and the register `PIN` (R15, R44). -/
abbrev PinNo := BitVec 6

/-- A 12-bit register in tenths: `LAST_H`, `LAST_T` (R10, R11). -/
abbrev Tenths := BitVec 12

/-- A 16-bit register in hundredths: `RESULT` (R20). -/
abbrev Hundredths := BitVec 16

/-- The host's 8-bit command word (R44). -/
abbrev CmdWord := BitVec 8

/-- The 4-bit code of a phase (R49). -/
abbrev PhaseCode := BitVec 4

end Sys2Proof
end

