-- ==== Sys2Proof/Config.lean ====
section
/-! DEFINITION. The build parameters of `00_scope.md` rule R4, the values this hardware takes, what the rules assume of
them, and the free values that stand for the inputs no one has scripted (log entry 2). -/

namespace Sys2Proof

/-- The parameters of R4. -/
structure Config where
  /-- `TICK`: real time of one step, in microseconds. No phase rule reads it, every rule counts in steps; it gives a count
  of steps its real time (`Config.micros`). -/
  tickMicros : Nat
  /-- `T_START`: steps the line is driven low in START (R59). OPEN. -/
  tStart : Nat
  /-- `T_SETTLE`: steps spent in SETTLE (R60). -/
  tSettle : Nat
  /-- `T_TIMEOUT`: bound of each wait, in line samples (R61). -/
  tTimeout : Nat
  /-- `T_SAMPLE`: steps from the end of BITW2 to the sample (R67). -/
  tSample : Nat
  /-- `ACK1_LEVEL` (R62). OPEN. -/
  ack1Level : Level
  /-- `ACK2_LEVEL` (R63). OPEN. -/
  ack2Level : Level
  /-- `BITW1_LEVEL` (R64). OPEN. -/
  bitw1Level : Level
  /-- `BITW2_LEVEL` (R65). OPEN. -/
  bitw2Level : Level
  /-- `BOUNDED`: whether waits time out (R61, R66). -/
  bounded : Bool
  /-- `N_PINS`: number of lines, 1 to 64. -/
  nPins : Nat
  /-- `CNT_W`: width of `cnt` in bits (R17). -/
  cntW : Nat
  deriving DecidableEq, Repr

namespace Config

/-- The column "value" of R4's table: what this hardware takes. -/
def hardware : Config where
  tickMicros := 1
  tStart := 18000
  tSettle := 40
  tTimeout := 100
  tSample := 28
  ack1Level := false
  ack2Level := true
  bitw1Level := true
  bitw2Level := false
  bounded := true
  nPins := 1
  cntW := 15

/-- What every rule assumes of the parameters (R4): each count is at least 1, `N_PINS` is 1 to 64, and `CNT_W` bits hold
every count a phase reaches (R4 says so of `T_START - 1`; R17 says of all four that `cnt` never overflows). -/
structure Legal (c : Config) : Prop where
  start_pos : 1 ≤ c.tStart
  settle_pos : 1 ≤ c.tSettle
  timeout_pos : 1 ≤ c.tTimeout
  sample_pos : 1 ≤ c.tSample
  pins_pos : 1 ≤ c.nPins
  pins_le : c.nPins ≤ 64
  start_fits : c.tStart ≤ 2 ^ c.cntW
  settle_fits : c.tSettle ≤ 2 ^ c.cntW
  timeout_fits : c.tTimeout ≤ 2 ^ c.cntW
  sample_fits : c.tSample ≤ 2 ^ c.cntW

/-- The real time of a number of steps, in microseconds (R4: one step is one `TICK`). -/
def micros (c : Config) (steps : Nat) : Nat := steps * c.tickMicros

/-- R4: any `T_START` of at least 18000 conforms, a smaller one does not (R59). -/
abbrev Conforming (c : Config) : Prop := 18000 ≤ c.tStart

/-- FREE VALUE (log 2): `rst` at step `n` when the script of host inputs has run out. -/
opaque freeRst : Nat → Bool

/-- FREE VALUE (log 2): `cmd_valid` at step `n` when the script of host inputs has run out. -/
opaque freeCmdValid : Nat → Bool

/-- FREE VALUE (log 2): `cmd_word` at step `n` when the script of host inputs has run out. -/
opaque freeCmdWord : Nat → CmdWord

/-- FREE VALUE (log 2): `SENS[p]` at step `n` for every line `p` when the script of sensor levels has run out; R6 and U7
let the sensor side be any function of `n`. -/
opaque freeSens : Nat → Lines

end Config
end Sys2Proof
end

