-- ==== Sys2Proof/Syntax.lean ====
section
/-! DEFINITION. The names of the block: requested quantities, phases, code words, and the one inductive `Instr` with a
constructor for every row of `opcode_table.json` (four command rows, nine phase rows). -/

namespace Sys2Proof

/-- A requested quantity (R45). Code 3 of the 2-bit register `Q` is never held (R14), so it has no constructor. -/
inductive Quantity where
  /-- `q = 0`, temperature-Celsius. -/
  | celsius
  /-- `q = 1`, temperature-Fahrenheit. -/
  | fahrenheit
  /-- `q = 2`, humidity-percent. -/
  | humidity
  deriving DecidableEq, Repr

/-- The nine phases of `ph` (R16). R49: "a model should use an enumeration, not the numbers". -/
inductive Phase where
  | idle | start | settle | ack1 | ack2 | bitw1 | bitw2 | bitdly | finish
  deriving DecidableEq, Repr

/-- A word of one of the table's two code spaces: the host's command word (format CW8, R44) or the phase code in `ph`
(format PH4, R49). -/
inductive CodeWord where
  | cw8 (w : CmdWord)
  | ph4 (w : PhaseCode)
  deriving DecidableEq, Repr

/-- One constructor per row of `opcode_table.json`. -/
inductive Instr where
  /-- `READ.TC pin` (R51). -/
  | readTC (pin : PinNo)
  /-- `READ.TF pin` (R52). -/
  | readTF (pin : PinNo)
  /-- `READ.RH pin` (R53). -/
  | readRH (pin : PinNo)
  /-- `RESERVED.Q3`: a command word with `q = 3`, any pin (R46). -/
  | reservedQ3 (pin : PinNo)
  /-- `PH.IDLE` (R58). -/
  | phIdle
  /-- `PH.START` (R59). -/
  | phStart
  /-- `PH.SETTLE` (R60). -/
  | phSettle
  /-- `PH.ACK1` (R62). -/
  | phAck1
  /-- `PH.ACK2` (R63). -/
  | phAck2
  /-- `PH.BITW1` (R64). -/
  | phBitw1
  /-- `PH.BITW2` (R65). -/
  | phBitw2
  /-- `PH.BITDLY` (R67). -/
  | phBitdly
  /-- `PH.FINISH` (R68). -/
  | phFinish
  deriving DecidableEq, Repr

end Sys2Proof
end

