-- ==== Sys2Proof/WellFormed.lean ====
section
/-! DEFINITION. Which instructions are legal for a given build (R44, R46: the pin of a read command must be below
`N_PINS`). -/

namespace Sys2Proof

/-- The operand check of R44. `RESERVED.Q3` is a row of the table with any pin (R46); the phases have no operand. -/
def Instr.wellFormed (c : Config) : Instr → Bool
  | .readTC pin => decide (pin.toNat < c.nPins)
  | .readTF pin => decide (pin.toNat < c.nPins)
  | .readRH pin => decide (pin.toNat < c.nPins)
  | .reservedQ3 _ => true
  | .phIdle => true
  | .phStart => true
  | .phSettle => true
  | .phAck1 => true
  | .phAck2 => true
  | .phBitw1 => true
  | .phBitw2 => true
  | .phBitdly => true
  | .phFinish => true

/-- `i` is legal for the build `c`. -/
abbrev Instr.WellFormed (c : Config) (i : Instr) : Prop := i.wellFormed c = true

end Sys2Proof
end

