-- ==== Sys2Proof/Decode.lean ====
section
/-! DEFINITION. Decoding and encoding of the two code spaces (`30_encoding.md` R44 to R46, R49), the opcode table as
data, and the host's numbering of the table's words. -/

namespace Sys2Proof

/-- Why a code word is no instruction. -/
inductive Reject where
  /-- A read command whose pin is not below `N_PINS`: reserved (R46). -/
  | pinReserved (pin : PinNo)
  /-- A phase code 9 to 15: never held (R16, R49). -/
  | noSuchPhase (code : PhaseCode)
  deriving DecidableEq, Repr

/-- `cmd_word[1:0]` (R44). -/
def qField (w : CmdWord) : BitVec 2 := w.extractLsb' 0 2

/-- `cmd_word[7:2]` (R44). -/
def pinField (w : CmdWord) : PinNo := w.extractLsb' 2 6

/-- The quantity codes (R45). -/
def Quantity.code : Quantity → BitVec 2
  | .celsius => 0#2
  | .fahrenheit => 1#2
  | .humidity => 2#2

/-- The quantity of a code; none for the reserved code 3 (R45, R46). -/
def quantityOf (q : BitVec 2) : Option Quantity :=
  if q = 0#2 then some .celsius
  else if q = 1#2 then some .fahrenheit
  else if q = 2#2 then some .humidity
  else none

/-- The phase codes of R49. -/
def Phase.code : Phase → PhaseCode
  | .idle => 0#4
  | .start => 1#4
  | .settle => 2#4
  | .ack1 => 3#4
  | .ack2 => 4#4
  | .bitw1 => 5#4
  | .bitw2 => 6#4
  | .bitdly => 7#4
  | .finish => 8#4

/-- The phase of a code; none for 9 to 15 (R49). -/
def phaseOf (w : PhaseCode) : Option Phase :=
  if w = 0#4 then some .idle
  else if w = 1#4 then some .start
  else if w = 2#4 then some .settle
  else if w = 3#4 then some .ack1
  else if w = 4#4 then some .ack2
  else if w = 5#4 then some .bitw1
  else if w = 6#4 then some .bitw2
  else if w = 7#4 then some .bitdly
  else if w = 8#4 then some .finish
  else none

/-- The read command of a quantity (R45). -/
def Quantity.read (pin : PinNo) : Quantity → Instr
  | .celsius => .readTC pin
  | .fahrenheit => .readTF pin
  | .humidity => .readRH pin

/-- The phase-step instruction of a phase (R56's dispatch list). -/
def Phase.instr : Phase → Instr
  | .idle => .phIdle
  | .start => .phStart
  | .settle => .phSettle
  | .ack1 => .phAck1
  | .ack2 => .phAck2
  | .bitw1 => .phBitw1
  | .bitw2 => .phBitw2
  | .bitdly => .phBitdly
  | .finish => .phFinish

/-- A command word (R44 to R46): `q = 3` is the reserved row whatever its pin, a read needs `pin < N_PINS`. -/
def decodeCommand (c : Config) (w : CmdWord) : Except Reject Instr :=
  match quantityOf (qField w) with
  | none => .ok (.reservedQ3 (pinField w))
  | some q =>
    if (pinField w).toNat < c.nPins then .ok (q.read (pinField w)) else .error (.pinReserved (pinField w))

/-- A phase code (R49). -/
def decodePhase (w : PhaseCode) : Except Reject Instr :=
  match phaseOf w with
  | some p => .ok p.instr
  | none => .error (.noSuchPhase w)

/-- The decoder: total on the words of both code spaces, rejecting by name. -/
def decode (c : Config) : CodeWord → Except Reject Instr
  | .cw8 w => decodeCommand c w
  | .ph4 w => decodePhase w

/-- `{pin, q}` (R44); R45 writes the same word as `(pin << 2) | q`. -/
def commandWord (pin : PinNo) (q : BitVec 2) : CmdWord := pin ++ q

/-- The encoder, from R44, R45, R46 and R49. -/
def encode : Instr → CodeWord
  | .readTC pin => .cw8 (commandWord pin 0#2)
  | .readTF pin => .cw8 (commandWord pin 1#2)
  | .readRH pin => .cw8 (commandWord pin 2#2)
  | .reservedQ3 pin => .cw8 (commandWord pin 3#2)
  | .phIdle => .ph4 0#4
  | .phStart => .ph4 1#4
  | .phSettle => .ph4 2#4
  | .phAck1 => .ph4 3#4
  | .phAck2 => .ph4 4#4
  | .phBitw1 => .ph4 5#4
  | .phBitw2 => .ph4 6#4
  | .phBitdly => .ph4 7#4
  | .phFinish => .ph4 8#4

/-- One row of `opcode_table.json`: the mnemonic, whether the format is CW8 (else PH4), `match` and `mask`. -/
structure TableRow where
  mnemonic : String
  isCommand : Bool
  pattern : BitVec 8
  mask : BitVec 8
  deriving DecidableEq, Repr

/-- The rows of `opcode_table.json`, in its order. -/
def opcodeTable : List TableRow :=
  [⟨"READ.TC", true, 0x00#8, 0x03#8⟩, ⟨"READ.TF", true, 0x01#8, 0x03#8⟩, ⟨"READ.RH", true, 0x02#8, 0x03#8⟩,
   ⟨"RESERVED.Q3", true, 0x03#8, 0x03#8⟩] ++
  [⟨"PH.IDLE", false, 0x0#8, 0xF#8⟩, ⟨"PH.START", false, 0x1#8, 0xF#8⟩, ⟨"PH.SETTLE", false, 0x2#8, 0xF#8⟩,
   ⟨"PH.ACK1", false, 0x3#8, 0xF#8⟩, ⟨"PH.ACK2", false, 0x4#8, 0xF#8⟩, ⟨"PH.BITW1", false, 0x5#8, 0xF#8⟩,
   ⟨"PH.BITW2", false, 0x6#8, 0xF#8⟩, ⟨"PH.BITDLY", false, 0x7#8, 0xF#8⟩, ⟨"PH.FINISH", false, 0x8#8, 0xF#8⟩]

/-- The row of the table an instruction belongs to, by position. -/
def Instr.rowIndex : Instr → Nat
  | .readTC _ => 0
  | .readTF _ => 1
  | .readRH _ => 2
  | .reservedQ3 _ => 3
  | .phIdle => 4
  | .phStart => 5
  | .phSettle => 6
  | .phAck1 => 7
  | .phAck2 => 8
  | .phBitw1 => 9
  | .phBitw2 => 10
  | .phBitdly => 11
  | .phFinish => 12

/-- A code word as the table numbers its bits, whole bytes: a phase code is zero-extended. -/
def CodeWord.tableBits : CodeWord → BitVec 8
  | .cw8 w => w
  | .ph4 w => w.setWidth 8

/-- Whether a code word is of format CW8. -/
def CodeWord.isCommand : CodeWord → Bool
  | .cw8 _ => true
  | .ph4 _ => false

/-- The code word a word of the table's numbering stands for (log entry 13). The two formats of the table share the words
0 to 15: a 4-bit word is a phase code; of the bytes, 4 to 8 are the phase codes PH.ACK2 to PH.FINISH and every other is a
command word. -/
def tableCodeWord (nbits w : Nat) : Option CodeWord :=
  if (nbits = 4 ∧ w < 16) ∨ (nbits = 8 ∧ 4 ≤ w ∧ w ≤ 8) then some (.ph4 (BitVec.ofNat 4 w))
  else if nbits = 8 ∧ w < 256 then some (.cw8 (BitVec.ofNat 8 w))
  else none

/-- The host's question about one word of `opcode_table.json`, answered with `decode` (log entry 13). -/
def decodeTableWord (nbits w : Nat) : Option Instr :=
  match tableCodeWord nbits w with
  | some x => (decode Config.hardware x).toOption
  | none => none

end Sys2Proof
end

