-- ==== Sys2Proof/Machine/State.lean ====
section
/-! DEFINITION. The machine's state (`10_state.md` R9 to R25), its inputs and parameters as plain data (log entries 2 and
3), the reasons a step can stop, and the state after reset (R28, R92). -/

namespace Sys2Proof.Machine

/-- The host's three inputs at one step (R27). -/
structure HostIn where
  /-- `rst`: reset request (R92). -/
  rst : Bool
  /-- `cmd_valid` (R50). -/
  cmdValid : Bool
  /-- `cmd_word` (R44). -/
  cmdWord : CmdWord
  deriving DecidableEq, Repr

/-- The state. The first fifteen fields are the stored elements of R9's table (its `B[0..4]` is a view,
`frameBytes`; R9's text counts 17 elements where its table lists 16: the model follows the table, log 17); the last
four are the model's own: the build parameters and the inputs of this and the following steps. -/
structure State where
  /-- `LAST_H` (R10): last-known-good humidity, tenths of a percent. -/
  lastH : Tenths
  /-- `LAST_T` (R11): last-known-good temperature, tenths of a degree Celsius. -/
  lastT : Tenths
  /-- `FB[0..39]` (R12). -/
  fb : FrameBuffer
  /-- `Q` (R14). -/
  q : Quantity
  /-- `PIN` (R15). -/
  pin : PinNo
  /-- `ph` (R16). -/
  ph : Phase
  /-- `cnt` (R17), a counter of `CNT_W` bits (log 10). -/
  cnt : Nat
  /-- `bitidx` (R18). -/
  bitidx : BitVec 6
  /-- `OE_LOW[p]` (R19); only `p < N_PINS` exist, the others stay 0 (log 8). -/
  oeLow : Lines
  /-- `RESULT` (R20). -/
  result : Hundredths
  /-- `BUSY` (R21). -/
  busy : Bool
  /-- `DONE` (R22). -/
  done : Bool
  /-- `FRESH` (R23). -/
  fresh : Bool
  /-- `ACK_TO` (R24). -/
  ackTo : Bool
  /-- `BIT_TO` (R25). -/
  bitTo : Bool
  /-- The model's own: the build parameters of R4; no step writes them (log 3). -/
  cfg : Config
  /-- The model's own: the host inputs of this step (the head) and of the following ones (log 2). -/
  host : List HostIn
  /-- The model's own: `SENS[p]` of this step (the head) and of the following ones (log 2). -/
  sens : List Lines
  /-- The model's own: the step index `n`, at which free values are drawn when a list has run out (log 2). -/
  tick : Nat
  deriving DecidableEq, Repr

/-- Why the model stops. The block itself raises nothing (R80); both reasons name an access to something the spec says
does not exist, and no state that satisfies the machine's invariant raises them (log 7). -/
inductive Fault where
  /-- Raised by an access to a line `p ≥ N_PINS` (R32: the line space is 0..`N_PINS`-1) in PH.START, the four waits and
  PH.BITDLY. Safe: the model stops where the spec has no line to drive or read. -/
  | noSuchLine (pin : PinNo)
  /-- Raised by PH.BITDLY when it would store to a cell above 39 (R32, R33). Safe: there is no such cell. -/
  | noSuchCell (index : BitVec 6)
  deriving DecidableEq, Repr

/-- Why an instruction has no meaning. -/
inductive Refusal where
  /-- Raised by an arm of `exec` whose instruction is not modelled. No arm does so in this model. Safe. -/
  | notModelled (mnemonic : String)
  deriving DecidableEq, Repr

/-- What every meaning answers. -/
abbrev Result := Host.Outcome State Fault Refusal

/-- The reset state (R28): every element of the spec at the value its table gives. The model's own fields: this
hardware's parameters, no scripted input, step index 0 (log entries 2 and 3). -/
def State.reset : State where
  lastH := 0#12
  lastT := 0#12
  fb := Vector.replicate 40 false
  q := .celsius
  pin := 0#6
  ph := .idle
  cnt := 0
  bitidx := 0#6
  oeLow := Vector.replicate 64 false
  result := 0#16
  busy := false
  done := false
  fresh := false
  ackTo := false
  bitTo := false
  cfg := Config.hardware
  host := []
  sens := []
  tick := 0

end Sys2Proof.Machine
end

