-- ==== Sys2Proof/Machine/Operands.lean ====
section
/-! DEFINITION. What the rules read: the inputs of a step (R27), the line (R37, R38), the frame buffer's cells and its
five-byte view (R13, R34, R69). -/

namespace Sys2Proof.Machine

/-! ## Inputs -/

/-- The host inputs `k` steps from `s`: scripted, or free values of that step (log 2). -/
def State.hostAt (s : State) (k : Nat) : HostIn :=
  match s.host[k]? with
  | some h => h
  | none => ⟨Config.freeRst (s.tick + k), Config.freeCmdValid (s.tick + k), Config.freeCmdWord (s.tick + k)⟩

/-- The host inputs sampled at this step (R27). -/
def State.hostNow (s : State) : HostIn := s.hostAt 0

/-- The sensor side of every line `k` steps from `s`: scripted, or free values of that step (R6, U7, log 2). -/
def State.sensLinesAt (s : State) (k : Nat) : Lines :=
  match s.sens[k]? with
  | some v => v
  | none => Config.freeSens (s.tick + k)

/-! ## The line space -/

/-- Element `p` of an array over the lines. -/
def lineBit (v : Lines) (p : PinNo) : Bool := v[p.toNat]'p.isLt

/-- `SENS[p]` `k` steps from `s`. -/
def State.sensAt (s : State) (k : Nat) (p : PinNo) : Level := lineBit (s.sensLinesAt k) p

/-- `LineRead(p)` at this step (R38): low if the block pulls it low, low if the sensor does, else the pull-up wins. -/
def lineRead (p : PinNo) (s : State) : Level :=
  if lineBit s.oeLow p = true then false
  else if s.sensAt 0 p = false then false
  else true

/-! ## The frame buffer -/

/-- `FB[i]`; there is no cell above 39 (R33), which reads as 0 here and is never asked for. -/
def cell (fb : FrameBuffer) (i : Nat) : Bool := if h : i < 40 then fb[i] else false

/-- `FB[i]` as a number, 0 or 1. -/
def cellBit (fb : FrameBuffer) (i : Nat) : Nat := (cell fb i).toNat

/-- `B[k] = sum over j in 0..7 of FB[8*k + j] * 2^(7-j)` (R13, R69). -/
def frameByte (fb : FrameBuffer) (k : Nat) : Nat :=
  cellBit fb (8 * k) * 2 ^ 7 + cellBit fb (8 * k + 1) * 2 ^ 6 + cellBit fb (8 * k + 2) * 2 ^ 5 +
  cellBit fb (8 * k + 3) * 2 ^ 4 + cellBit fb (8 * k + 4) * 2 ^ 3 + cellBit fb (8 * k + 5) * 2 ^ 2 +
  cellBit fb (8 * k + 6) * 2 ^ 1 + cellBit fb (8 * k + 7) * 2 ^ 0

/-- The five bytes of a frame, in transmission order (R13, R47). -/
structure FrameBytes where
  /-- `B[0]`, humidity-integer. -/
  humInt : Nat
  /-- `B[1]`, humidity-fraction. -/
  humFrac : Nat
  /-- `B[2]`, temperature-integer. -/
  tempInt : Nat
  /-- `B[3]`, temperature-fraction. -/
  tempFrac : Nat
  /-- `B[4]`, checksum. -/
  checksum : Nat
  deriving DecidableEq, Repr

/-- DECODE, the deserializer (R69): the view `B[0..4]` of the frame buffer (R13). -/
def frameBytes (fb : FrameBuffer) : FrameBytes :=
  ⟨frameByte fb 0, frameByte fb 1, frameByte fb 2, frameByte fb 3, frameByte fb 4⟩

end Sys2Proof.Machine
end

