-- ==== Sys2Proof/Machine/Flags.lean ====
section
/-! DEFINITION. The checksum verdict (R70), the timeout flags (R24, R25), the status word and the tags read off the flags
(R49). -/

namespace Sys2Proof.Machine

/-- VALIDATE (R70): the low 8 bits of the sum of bytes 0 to 3 equal byte 4. No other check exists. -/
def validate (b : FrameBytes) : Bool :=
  (b.humInt + b.humFrac + b.tempInt + b.tempFrac) % 256 == b.checksum

/-- Which flag a wait sets on timeout (R62 to R65). -/
inductive TimeoutFlag where
  | ackTo | bitTo
  deriving DecidableEq, Repr

/-- `flag <- 1` (R61). -/
def raiseFlag (f : TimeoutFlag) (s : State) : State :=
  match f with
  | .ackTo => { s with ackTo := true }
  | .bitTo => { s with bitTo := true }

/-- The status word (R49, host register 1): bit 0 BUSY, bit 1 FRESH, bit 2 ACK_TO, bit 3 BIT_TO, bits 7:4 read as 0. -/
def statusWord (s : State) : BitVec 8 :=
  0#4 ++ BitVec.ofBool s.bitTo ++ BitVec.ofBool s.ackTo ++ BitVec.ofBool s.fresh ++ BitVec.ofBool s.busy

/-- The tags of R49. -/
inductive Tag where
  | fresh | stale | noResponse
  deriving DecidableEq, Repr

/-- The tag of the last completed call, readable when `BUSY = 0` (R49). -/
def tag (s : State) : Option Tag :=
  if s.busy then none
  else if s.fresh then some .fresh
  else if s.ackTo then some .noResponse
  else some .stale

end Sys2Proof.Machine
end

