-- ==== Sys2Proof/Machine/Ops.lean ====
section
/-! DEFINITION. The operations the phase rules share: phase change (R57), counting (R17), the line driver (R39), the
bounded wait (R61), the stores to the frame buffer (R33), command acceptance (R58), commit and report (R71, R72), and
reset (R92).

There is no exception entry and no return from one: the block raises nothing (R80), a degraded condition continues with
the ordinary next state of its phase (R85: `waitLevel`'s timeout arm, `finishCall` with the commit skipped), and there is
nothing to restore (R86). -/

namespace Sys2Proof.Machine

/-- `DONE <- 0`, written at every step (R56). -/
def clearDone (s : State) : State := { s with done := false }

/-- `ph <- P`, which also means `cnt <- 0` (R57). -/
def enterPhase (p : Phase) (s : State) : State := { s with ph := p, cnt := 0 }

/-- `cnt <- cnt + 1` in a register of `CNT_W` bits (R17, log 10). -/
def countUp (s : State) : State := { s with cnt := (s.cnt + 1) % 2 ^ s.cfg.cntW }

/-- `LineDrive(p, d)`: `OE_LOW[p] <- d` (R39). -/
def lineDrive (p : PinNo) (d : Bool) (s : State) : State := { s with oeLow := s.oeLow.set p.toNat d p.isLt }

/-- Go on only if line `p` exists (R32); log 7. -/
def requireLine (p : PinNo) (s : State) (k : Result) : Result :=
  if p.toNat < s.cfg.nPins then k else .fault (.noSuchLine p)

/-- Go on only if frame cell `i` exists (R33); log 7. -/
def requireCell (i : BitVec 6) (k : Result) : Result :=
  if i.toNat < 40 then k else .fault (.noSuchCell i)

/-- `WaitLevel(level, flag, next)` (R61): one sample; the level is tested before the count; a timeout goes to the same
next phase; without `BOUNDED` the wait only stays (R66). -/
def waitLevel (level : Level) (flag : TimeoutFlag) (next : Phase) (s : State) : State :=
  if lineRead s.pin s = level then enterPhase next s
  else if s.cfg.bounded = true ∧ s.cfg.tTimeout ≤ s.cnt + 1 then enterPhase next (raiseFlag flag s)
  else if s.cfg.bounded = true then countUp s
  else s

/-- `FB[bitidx] <- LineRead(PIN)` (R67). -/
def storeSample (s : State) : State := { s with fb := s.fb.setIfInBounds s.bitidx.toNat (lineRead s.pin s) }

/-- The loop control after a sample (R67): after bit 39 to FINISH, else the next bit. -/
def nextBit (s : State) : State :=
  if s.bitidx = 39#6 then enterPhase .finish s
  else enterPhase .bitw1 { s with bitidx := s.bitidx + 1#6 }

/-- The accept arm of R58 for quantity `q` on line `pin`. -/
def accept (q : Quantity) (pin : PinNo) (s : State) : State :=
  enterPhase .start (lineDrive pin true
    { s with
      q := q, pin := pin, fb := Vector.replicate 40 false, bitidx := 0#6,
      fresh := false, ackTo := false, bitTo := false, busy := true })

/-- COMMIT (R71) of a value pair: `10*b[0] + b[1]` and `10*b[2] + b[3]` when the frame is valid, else the old pair. -/
def commit (ok : Bool) (b : FrameBytes) (h t : Tenths) : Tenths × Tenths :=
  if ok then (BitVec.ofNat 12 (10 * b.humInt + b.humFrac), BitVec.ofNat 12 (10 * b.tempInt + b.tempFrac))
  else (h, t)

/-- The Fahrenheit conversion in hundredths, over all integers (R75): `t` tenths of a degree Celsius. -/
def fahrenheitX100 (t : Int) : Int := 18 * t + 3200

/-- REPORT (R72), over unbounded numbers; `h` and `t` in tenths, the result in hundredths. -/
def report (q : Quantity) (h t : Nat) : Nat :=
  match q with
  | .celsius => 10 * t
  | .fahrenheit => 18 * t + 3200
  | .humidity => 10 * h

/-- The effect of FINISH (R68): DECODE, VALIDATE, COMMIT, REPORT from the values after the commit, the flags (R73), end
of the call. -/
def finishCall (s : State) : State :=
  let b := frameBytes s.fb
  let ok := validate b
  let p := commit ok b s.lastH s.lastT
  enterPhase .idle
    { s with
      lastH := p.1, lastT := p.2, result := BitVec.ofNat 16 (report s.q p.1.toNat p.2.toNat),
      fresh := ok, busy := false, done := true }

/-- Reset (R92): every element of the spec takes its reset value; the build parameters and the inputs are not state of
the block and stay (log entries 2 and 3). -/
def applyReset (s : State) : State :=
  { State.reset with cfg := s.cfg, host := s.host, sens := s.sens, tick := s.tick }

/-- On to the inputs of the next step (log 2). -/
def advance (s : State) : State := { s with host := s.host.tail, sens := s.sens.tail, tick := s.tick + 1 }

end Sys2Proof.Machine
end

