-- ==== Sys2Proof/Machine/Phases.lean ====
section
/-! DEFINITION. The step rule of each phase up to the sample (`41_protocol_phases.md` R58 to R67). Each meaning is the
whole effect of one step with `rst = 0`, the `DONE <- 0` of R56 included; the rule of a phase is applied whatever `ph`
holds, the fetch selects it (log 16). -/

namespace Sys2Proof.Machine

/-- PH.IDLE (R58): accept a presented legal command word, else change nothing but DONE. -/
def execPhIdle (s : State) : Result :=
  let w := s.hostNow.cmdWord
  match quantityOf (qField w) with
  | some q =>
    if s.hostNow.cmdValid = true ∧ (pinField w).toNat < s.cfg.nPins then .next (accept q (pinField w) (clearDone s))
    else .next (clearDone s)
  | none => .next (clearDone s)

/-- PH.START (R59): the start pulse, released at the last of `T_START` steps. -/
def execPhStart (s : State) : Result :=
  if s.cnt + 1 = s.cfg.tStart then
    requireLine s.pin s (.next (enterPhase .settle (lineDrive s.pin false (clearDone s))))
  else .next (countUp (clearDone s))

/-- PH.SETTLE (R60): `T_SETTLE` steps. -/
def execPhSettle (s : State) : Result :=
  if s.cnt + 1 = s.cfg.tSettle then .next (enterPhase .ack1 (clearDone s)) else .next (countUp (clearDone s))

/-- PH.ACK1 (R62): `WaitLevel(ACK1_LEVEL, ACK_TO, ACK2)`. -/
def execPhAck1 (s : State) : Result :=
  requireLine s.pin s (.next (waitLevel s.cfg.ack1Level .ackTo .ack2 (clearDone s)))

/-- PH.ACK2 (R63): `WaitLevel(ACK2_LEVEL, ACK_TO, BITW1)`. -/
def execPhAck2 (s : State) : Result :=
  requireLine s.pin s (.next (waitLevel s.cfg.ack2Level .ackTo .bitw1 (clearDone s)))

/-- PH.BITW1 (R64): `WaitLevel(BITW1_LEVEL, BIT_TO, BITW2)`. -/
def execPhBitw1 (s : State) : Result :=
  requireLine s.pin s (.next (waitLevel s.cfg.bitw1Level .bitTo .bitw2 (clearDone s)))

/-- PH.BITW2 (R65): `WaitLevel(BITW2_LEVEL, BIT_TO, BITDLY)`. -/
def execPhBitw2 (s : State) : Result :=
  requireLine s.pin s (.next (waitLevel s.cfg.bitw2Level .bitTo .bitdly (clearDone s)))

/-- PH.BITDLY (R67): the sampling delay, the one sample of the bit, the loop control. -/
def execPhBitdly (s : State) : Result :=
  if s.cnt + 1 = s.cfg.tSample then
    requireLine s.pin s (requireCell s.bitidx (.next (nextBit (storeSample (clearDone s)))))
  else .next (countUp (clearDone s))

/-- PH.FINISH (R68): deserialize, validate, commit, report; `DONE <- 1` is the later write and wins (R56). -/
def execPhFinish (s : State) : Result := .next (finishCall (clearDone s))

/-- The phase rule a step executes (R56's dispatch list). -/
def phaseStep (s : State) : Result :=
  match s.ph with
  | .idle => execPhIdle s
  | .start => execPhStart s
  | .settle => execPhSettle s
  | .ack1 => execPhAck1 s
  | .ack2 => execPhAck2 s
  | .bitw1 => execPhBitw1 s
  | .bitw2 => execPhBitw2 s
  | .bitdly => execPhBitdly s
  | .finish => execPhFinish s

end Sys2Proof.Machine
end

