-- ==== Sys2Proof/Machine/Commands.lean ====
section
/-! DEFINITION. The command words of format CW8: one step of the block with that word presented at its command port
(`40_read_commands.md` R50 to R55, R46). The rest of a call is the phases' work (R5: the step level governs; log 1). -/

namespace Sys2Proof.Machine

/-- One step with the read of `q` on `pin` presented: in IDLE the acceptance of R58 (a pin that is not a line is reserved
and ignored, R46); in any other phase the command is lost and the phase's rule runs (R55; log 6). -/
def presentRead (q : Quantity) (pin : PinNo) (s : State) : Result :=
  if s.ph = .idle then
    if pin.toNat < s.cfg.nPins then .next (accept q pin (clearDone s)) else .next (clearDone s)
  else phaseStep s

/-- READ.TC pin (R51). -/
def execReadTC (pin : PinNo) (s : State) : Result := presentRead .celsius pin s

/-- READ.TF pin (R52). -/
def execReadTF (pin : PinNo) (s : State) : Result := presentRead .fahrenheit pin s

/-- READ.RH pin (R53). -/
def execReadRH (pin : PinNo) (s : State) : Result := presentRead .humidity pin s

/-- RESERVED.Q3 (R46): in IDLE ignored, no state changes but the `DONE <- 0` of R56 (log 4); in any other phase the
phase's rule runs (R55). The pin field is not looked at. -/
def execReservedQ3 (_pin : PinNo) (s : State) : Result :=
  if s.ph = .idle then .next (clearDone s) else phaseStep s

end Sys2Proof.Machine
end

