-- ==== Sys2Proof/Machine/Dispatch.lean ====
section
/-! DEFINITION. One arm per instruction, each a direct call of its meaning. -/

namespace Sys2Proof.Machine

def exec (i : Instr) (s : State) : Host.Outcome State Fault Refusal :=
  match i with
  | .readTC pin => Sys2Proof.Machine.execReadTC pin s
  | .readTF pin => Sys2Proof.Machine.execReadTF pin s
  | .readRH pin => Sys2Proof.Machine.execReadRH pin s
  | .reservedQ3 pin => Sys2Proof.Machine.execReservedQ3 pin s
  | .phIdle => Sys2Proof.Machine.execPhIdle s
  | .phStart => Sys2Proof.Machine.execPhStart s
  | .phSettle => Sys2Proof.Machine.execPhSettle s
  | .phAck1 => Sys2Proof.Machine.execPhAck1 s
  | .phAck2 => Sys2Proof.Machine.execPhAck2 s
  | .phBitw1 => Sys2Proof.Machine.execPhBitw1 s
  | .phBitw2 => Sys2Proof.Machine.execPhBitw2 s
  | .phBitdly => Sys2Proof.Machine.execPhBitdly s
  | .phFinish => Sys2Proof.Machine.execPhFinish s

end Sys2Proof.Machine
end

