-- ==== Sys2Proof/Machine/Fetch.lean ====
section
/-! DEFINITION. Which code word a step executes (R56, R58), and how a word is placed to be the next one. -/

namespace Sys2Proof.Machine

/-- The code word of this step: in IDLE with `cmd_valid = 1` the host's command word (R50, R58), else the phase code in
`ph` (R56). -/
def fetchWord (s : State) : CodeWord :=
  if s.ph = .idle ∧ s.hostNow.cmdValid = true then .cw8 s.hostNow.cmdWord else .ph4 s.ph.code

/-- The instruction of this step. -/
def fetch (s : State) : Except Reject Instr := decode s.cfg (fetchWord s)

/-- One step with `rst = 0`: the fetched instruction; a command word the decoder rejects is left to the IDLE rule, which
does not accept it (R46, R58). -/
def runFetched (s : State) : Result :=
  match fetch s with
  | .ok i => exec i s
  | .error _ => exec .phIdle s

/-- The inputs move on after a step. -/
def advanceOutcome : Result → Result
  | .next t => .next (advance t)
  | .fault r => .fault r
  | .refused r => .refused r

/-- `s` with the command word `w` presented at this step and `rst = 0`. -/
def placeCommand (w : CmdWord) (s : State) : State :=
  { s with ph := .idle, host := ⟨false, true, w⟩ :: s.host.tail }

/-- `s` in phase `p` at this step, `rst = 0` and no command presented. -/
def placePhase (p : Phase) (s : State) : State :=
  { s with ph := p, host := ⟨false, false, 0#8⟩ :: s.host.tail }

/-- `s` with a code word placed where the next step fetches it; a phase code that no phase has leaves `s` as it is. -/
def placeWord (x : CodeWord) (s : State) : State :=
  match x with
  | .cw8 w => placeCommand w s
  | .ph4 w =>
    match phaseOf w with
    | some p => placePhase p s
    | none => s

end Sys2Proof.Machine
end

