-- ==== Sys2Proof/Machine/Step.lean ====
section
/-! DEFINITION. The step (R56) and the placing of a table word for it (log entries 13 and 14). -/

namespace Sys2Proof.Machine

/-- One step (R56): reset has priority over everything (R92), else one phase rule or presented command; then the inputs
of the next step are current. -/
def step (s : State) : Host.Outcome State Fault Refusal :=
  if s.hostNow.rst = true then .next (advance (applyReset s)) else advanceOutcome (runFetched s)

/-- `s` with the table word `w` of `nbits` bits placed where the next step fetches it. -/
def State.withFetchWord (s : State) (nbits w : Nat) : State :=
  match tableCodeWord nbits w with
  | some x => placeWord x s
  | none => s

end Sys2Proof.Machine
end

