-- ==== Sys2Proof/Machine/Call.lean ====
section
/-! DEFINITION. The call level: the call as a function (R54), the capture in closed form (R98), the rational each scaled
register stands for (R48, R76). Nothing here is executed by the step: the step level governs (R5). -/

namespace Sys2Proof.Machine

/-- What a call returns and leaves (R54). -/
structure CallResult where
  result : Hundredths
  lastH : Tenths
  lastT : Tenths
  fresh : Bool
  deriving DecidableEq, Repr

/-- `Call(q, fb, h, t)` (R54). -/
def call (q : Quantity) (fb : FrameBuffer) (h t : Tenths) : CallResult :=
  let b := frameBytes fb
  let p := commit (validate b) b h t
  ⟨BitVec.ofNat 16 (report q p.1.toNat p.2.toNat), p.1, p.2, validate b⟩

/-- The first of the `k` instants `e, e+1, …` at which `L` shows `v`. -/
def firstAt (L : Nat → Level) (v : Level) : Nat → Nat → Option Nat
  | 0, _ => none
  | k + 1, e => if L e = v then some e else firstAt L v k (e + 1)

/-- `W(e, v)` (R98): where a bounded wait for `v` that starts at `e` ends. -/
def waitEnd (c : Config) (L : Nat → Level) (v : Level) (e : Nat) : Nat :=
  (firstAt L v c.tTimeout e).getD (e + c.tTimeout - 1)

/-- Whether that wait ends by timeout (R98). -/
def waitTimesOut (c : Config) (L : Nat → Level) (v : Level) (e : Nat) : Bool :=
  (firstAt L v c.tTimeout e).isNone

/-- First step of ACK1 (R98), the acceptance step being `a`. -/
def ack1Start (c : Config) (a : Nat) : Nat := a + c.tStart + c.tSettle + 1

/-- `x1`, the end of ACK1 (R98). -/
def ack1End (c : Config) (L : Nat → Level) (a : Nat) : Nat := waitEnd c L c.ack1Level (ack1Start c a)

/-- `x2`, the end of ACK2 (R98). -/
def ack2End (c : Config) (L : Nat → Level) (a : Nat) : Nat := waitEnd c L c.ack2Level (ack1End c L a + 1)

/-- First step of BITW1 of bit `i` (R98). -/
def bitStart (c : Config) (L : Nat → Level) (a : Nat) : Nat → Nat
  | 0 => ack2End c L a + 1
  | i + 1 => waitEnd c L c.bitw2Level (waitEnd c L c.bitw1Level (bitStart c L a i) + 1) + c.tSample + 1

/-- `u_i`, the end of BITW1 of bit `i` (R98). -/
def bitHigh (c : Config) (L : Nat → Level) (a i : Nat) : Nat := waitEnd c L c.bitw1Level (bitStart c L a i)

/-- `f_i`, the end of BITW2 of bit `i` (R98). -/
def bitFall (c : Config) (L : Nat → Level) (a i : Nat) : Nat := waitEnd c L c.bitw2Level (bitHigh c L a i + 1)

/-- `m_i`, the sample step of bit `i` (R98). -/
def bitSample (c : Config) (L : Nat → Level) (a i : Nat) : Nat := bitFall c L a i + c.tSample

/-- The step at which FINISH executes (R98): `m_39 + 1`. -/
def finishAt (c : Config) (L : Nat → Level) (a : Nat) : Nat := bitSample c L a 39 + 1

/-- The captured frame (R98): `FB[i] = L(m_i)`. -/
def capture (c : Config) (L : Nat → Level) (a : Nat) : FrameBuffer := Vector.ofFn fun i => L (bitSample c L a i.val)

/-- `ACK_TO` after the call (R98): one of the two acknowledgement waits times out. -/
def ackTimesOut (c : Config) (L : Nat → Level) (a : Nat) : Bool :=
  waitTimesOut c L c.ack1Level (ack1Start c a) || waitTimesOut c L c.ack2Level (ack1End c L a + 1)

/-- `BIT_TO` after the call (R98): some wait of some bit times out. -/
def bitTimesOut (c : Config) (L : Nat → Level) (a : Nat) : Bool :=
  (List.range 40).any fun i =>
    waitTimesOut c L c.bitw1Level (bitStart c L a i) || waitTimesOut c L c.bitw2Level (bitHigh c L a i + 1)

/-- `Q(v)` of a value in tenths (R48, R76). -/
def ofTenths (v : Int) : ℚ := v / 10

/-- `Q(v)` of a value in hundredths (R48, R76). -/
def ofHundredths (v : Int) : ℚ := v / 100

end Sys2Proof.Machine
end

