-- ==== Sys2Proof/Machine/HostPort.lean ====
section
/-! DEFINITION. The host's view: the outputs of a step (R30) and the five numbered registers (R29). The bus that carries
them is outside the spec; reading has no side effect and a write to a read-only register is ignored. -/

namespace Sys2Proof.Machine

/-- What the host may observe at every step (R30). -/
structure Outputs where
  busy : Bool
  done : Bool
  fresh : Bool
  ackTo : Bool
  bitTo : Bool
  result : Hundredths
  lastH : Tenths
  lastT : Tenths
  deriving DecidableEq, Repr

/-- The outputs during a step are those of the state before it (R30, `00_scope.md` section 4). -/
def outputs (s : State) : Outputs :=
  ⟨s.busy, s.done, s.fresh, s.ackTo, s.bitTo, s.result, s.lastH, s.lastT⟩

/-- The host registers of R29. -/
inductive HostReg where
  | cmd | status | result | lastH | lastT
  deriving DecidableEq, Repr

/-- The register of a number; no other number is assigned (R29; log 12). -/
def hostRegOf (n : Nat) : Option HostReg :=
  match n with
  | 0 => some .cmd
  | 1 => some .status
  | 2 => some .result
  | 3 => some .lastH
  | 4 => some .lastT
  | _ => none

/-- A host read, zero-extended to the widest register (R29): CMD reads as 0. -/
def hostRead (r : HostReg) (s : State) : BitVec 16 :=
  match r with
  | .cmd => 0#16
  | .status => (statusWord s).setWidth 16
  | .result => s.result
  | .lastH => s.lastH.setWidth 16
  | .lastT => s.lastT.setWidth 16

/-- A host write (R29): CMD presents `cmd_valid = 1` with the written word for this one step (log 12); the others are
read only and ignore it. -/
def hostWrite (r : HostReg) (v : CmdWord) (s : State) : State :=
  match r with
  | .cmd => { s with host := ⟨s.hostNow.rst, true, v⟩ :: s.host.tail }
  | .status => s
  | .result => s
  | .lastH => s
  | .lastT => s

end Sys2Proof.Machine
end

