-- ==== Sys2Proof/Safety.lean ====
section
/-! DEFINITION. What counts as a safe state and a safe run, in the terms the statements use. -/

namespace Sys2Proof.Machine

/-- The bound of `cnt` in each phase (R17): it counts up to the phase's length less one, and is 0 in IDLE and FINISH and,
without `BOUNDED`, in the waits (R66). -/
def cntBound (c : Config) : Phase → Nat
  | .idle => 1
  | .start => c.tStart
  | .settle => c.tSettle
  | .ack1 => if c.bounded then c.tTimeout else 1
  | .ack2 => if c.bounded then c.tTimeout else 1
  | .bitw1 => if c.bounded then c.tTimeout else 1
  | .bitw2 => if c.bounded then c.tTimeout else 1
  | .bitdly => c.tSample
  | .finish => 1

/-- The phases of a call before FINISH: bits may remain to be sampled. -/
def capturing : Phase → Bool
  | .start | .settle | .ack1 | .ack2 | .bitw1 | .bitw2 | .bitdly => true
  | .idle | .finish => false

/-- The phases of a call before the capture loop. -/
def beforeLoop : Phase → Bool
  | .start | .settle | .ack1 | .ack2 => true
  | .idle | .bitw1 | .bitw2 | .bitdly | .finish => false

/-- The level a wait phase waits for (R62 to R65); none for the other phases. -/
def awaited (c : Config) : Phase → Option Level
  | .ack1 => some c.ack1Level
  | .ack2 => some c.ack2Level
  | .bitw1 => some c.bitw1Level
  | .bitw2 => some c.bitw2Level
  | .idle | .start | .settle | .bitdly | .finish => none

/-- The phases that may follow the one `s` is in (R16): staying, the strict order, and the loop's one backward transition
while `bitidx < 39`. -/
def follows (s : State) (p : Phase) : Prop :=
  p = s.ph ∨
  match s.ph with
  | .idle => p = .start
  | .start => p = .settle
  | .settle => p = .ack1
  | .ack1 => p = .ack2
  | .ack2 => p = .bitw1
  | .bitw1 => p = .bitw2
  | .bitw2 => p = .bitdly
  | .bitdly => (p = .bitw1 ∧ s.bitidx.toNat < 39) ∨ (p = .finish ∧ s.bitidx.toNat = 39)
  | .finish => p = .idle

/-- The invariant of the block: what `10_state.md` says of every reachable state. -/
structure State.Inv (s : State) : Prop where
  /-- The build parameters are what every rule assumes (R4). -/
  legal : s.cfg.Legal
  /-- `PIN` is a line (R15). -/
  pin_lt : s.pin.toNat < s.cfg.nPins
  /-- `bitidx` never exceeds 39 (R18). -/
  bitidx_le : s.bitidx.toNat ≤ 39
  /-- `bitidx` is 0 until the capture loop begins (R18, R58). -/
  bitidx_zero : beforeLoop s.ph = true → s.bitidx = 0#6
  /-- `cnt` stays below its phase's bound (R17). -/
  cnt_lt : s.cnt < cntBound s.cfg s.ph
  /-- The block drives exactly the selected line, exactly in START (R19). -/
  driver : ∀ p : PinNo, lineBit s.oeLow p = true ↔ s.ph = .start ∧ p = s.pin
  /-- `BUSY = (ph != IDLE)` (R21). -/
  busy_iff : s.busy = true ↔ s.ph ≠ .idle
  /-- `DONE` only in IDLE (R22). -/
  done_idle : s.done = true → s.ph = .idle
  /-- `FRESH` is 0 from acceptance to FINISH (R23). -/
  fresh_idle : s.fresh = true → s.ph = .idle
  /-- A cell not yet sampled reads 0 (R33). -/
  unsampled : capturing s.ph = true → ∀ i : Nat, s.bitidx.toNat ≤ i → cell s.fb i = false
  /-- `LAST_H` is at most 2805 (R10). -/
  lastH_le : s.lastH.toNat ≤ 2805
  /-- `LAST_T` is at most 2805 (R11). -/
  lastT_le : s.lastT.toNat ≤ 2805
  /-- `RESULT` is at most 53690 (R20). -/
  result_le : s.result.toNat ≤ 53690

/-- `k` steps from `s` end in `t`. -/
def Runs (k : Nat) (s t : State) : Prop := Host.Core.run Sys2Proof.core k s = .next t

/-- A safe run: no step of it faults or refuses, whatever the inputs (R80). -/
def SafeRun (s : State) : Prop := ∀ k, ∃ t, Runs k s t

/-- No reset at the steps `0 … k-1` from `s`. -/
def NoReset (s : State) (k : Nat) : Prop := ∀ i, i < k → (s.hostAt i).rst = false

/-- The idle block is presented the read of `q` on the existing line `pin` at this step (R50, R58). -/
structure Accepts (s : State) (q : Quantity) (pin : PinNo) : Prop where
  idle : s.ph = .idle
  valid : s.hostNow.cmdValid = true
  word : s.hostNow.cmdWord = commandWord pin q.code
  line : pin.toNat < s.cfg.nPins

/-- The sensor side of line `pin` as a function of the step, counted from `s`. From the release of the line on it is the
line level of R38, and R98 uses the level at no earlier step. -/
def levelFrom (s : State) (pin : PinNo) (k : Nat) : Level := s.sensAt k pin

/-- The longest call of a bounded build (R97), in steps: every wait lasts `T_TIMEOUT`. -/
def longestCall (c : Config) : Nat := 1 + c.tStart + c.tSettle + 2 * c.tTimeout + 40 * (2 * c.tTimeout + c.tSample) + 1

/-- The shortest call (R97), in steps: every wait lasts one step. -/
def shortestCall (c : Config) : Nat := 1 + c.tStart + c.tSettle + 2 + 40 * (2 + c.tSample) + 1

end Sys2Proof.Machine
end

