-- ==== Sys2Proof/Certificates/Slice0/Obligations.lean ====
section
/-! DEFINITION. The statements for the provers, from the numbered rules of `spec/`. -/

open Sys2Proof Sys2Proof.Machine

/-! ## Words the statements share -/

namespace Sys2Proof.Claims

/-- Every element of the spec at its reset value (R28), the build parameters being those of `s`. -/
def resetOf (s : State) : State :=
  { lastH := 0#12, lastT := 0#12, fb := Vector.replicate 40 false, q := .celsius, pin := 0#6, ph := .idle, cnt := 0,
    bitidx := 0#6, oeLow := Vector.replicate 64 false, result := 0#16, busy := false, done := false, fresh := false,
    ackTo := false, bitTo := false, cfg := s.cfg, host := s.host, sens := s.sens, tick := s.tick }

/-- `s` with the inputs of the next step current. -/
def nextInputs (s : State) : State := { s with host := s.host.tail, sens := s.sens.tail, tick := s.tick + 1 }

/-- The state R58's accept arm leaves: the operands latched, the frame buffer and the three flags cleared, BUSY set, line
`pin` driven low, START entered; nothing else changes but `DONE <- 0`. -/
def acceptedState (q : Quantity) (pin : PinNo) (s : State) : State :=
  { s with
    q := q, pin := pin, fb := Vector.replicate 40 false, bitidx := 0#6, oeLow := s.oeLow.set pin.toNat true pin.isLt,
    busy := true, done := false, fresh := false, ackTo := false, bitTo := false, ph := .start, cnt := 0 }

/-- The four arms of a wait phase (R61) whose awaited level is `level`, whose timeout sets a flag by `setFlag`, and whose
next phase, after a success and after a timeout alike, is `next`. -/
def WaitArms (i : Instr) (level : Config → Level) (setFlag : State → State) (next : Phase) : Prop :=
  ∀ s : State, s.pin.toNat < s.cfg.nPins →
    (lineRead s.pin s = level s.cfg → exec i s = .next { s with done := false, ph := next, cnt := 0 }) ∧
    (lineRead s.pin s ≠ level s.cfg → s.cfg.bounded = true → s.cfg.tTimeout ≤ s.cnt + 1 →
      exec i s = .next { setFlag s with done := false, ph := next, cnt := 0 }) ∧
    (lineRead s.pin s ≠ level s.cfg → s.cfg.bounded = true → s.cnt + 1 < s.cfg.tTimeout →
      s.cnt + 1 < 2 ^ s.cfg.cntW → exec i s = .next { s with done := false, cnt := s.cnt + 1 }) ∧
    (lineRead s.pin s ≠ level s.cfg → s.cfg.bounded = false → exec i s = .next { s with done := false })

/-- The step of `s` is the timeout arm of a wait (R61). -/
def TimesOut (s : State) : Prop :=
  ∃ v, awaited s.cfg s.ph = some v ∧ lineRead s.pin s ≠ v ∧ s.cfg.bounded = true ∧ s.cfg.tTimeout ≤ s.cnt + 1

/-- The checksum test of R70 on a frame buffer. -/
def ChecksumOk (fb : FrameBuffer) : Prop :=
  (frameByte fb 0 + frameByte fb 1 + frameByte fb 2 + frameByte fb 3) % 256 = frameByte fb 4

/-- The number R72 reports, in hundredths, from the values `h` and `t` in tenths. -/
def reported : Quantity → Nat → Nat → Nat
  | .celsius, _, t => 10 * t
  | .fahrenheit, _, t => 18 * t + 3200
  | .humidity, h, _ => 10 * h

/-- The default levels of the four waits (R4, D6). -/
def DefaultLevels (c : Config) : Prop :=
  c.ack1Level = false ∧ c.ack2Level = true ∧ c.bitw1Level = true ∧ c.bitw2Level = false

/-- The unbounded build's view of a bounded state: no timeout, and the waits do not count (R66). -/
def unboundedView (s : State) : State :=
  { s with cfg := { s.cfg with bounded := false }, cnt := if (awaited s.cfg s.ph).isSome then 0 else s.cnt }

/-- `s` with the three observability flags replaced. -/
def withFlags (f a b : Bool) (s : State) : State := { s with fresh := f, ackTo := a, bitTo := b }

end Sys2Proof.Claims

open Sys2Proof.Claims

/-! ## Encoding (R44 to R46, R49) -/

/-- Words written out from the encodings of R44, R45 and R49 decode to the instructions they stand for; the reserved
words `pin ≥ N_PINS` and the codes 9 to 15 decode to none. -/
def Obligations.WrittenWordsDecode : Prop :=
  decode Config.hardware (.cw8 0b00000000#8) = .ok (.readTC 0) ∧
  decode Config.hardware (.cw8 0b00000001#8) = .ok (.readTF 0) ∧
  decode Config.hardware (.cw8 0b00000010#8) = .ok (.readRH 0) ∧
  decode Config.hardware (.cw8 0b00000011#8) = .ok (.reservedQ3 0) ∧
  decode Config.hardware (.cw8 0b00000110#8) = .error (.pinReserved 1) ∧
  decode { Config.hardware with nPins := 64 } (.cw8 0b10110101#8) = .ok (.readTF 0b101101#6) ∧
  decode Config.hardware (.ph4 0b0000#4) = .ok .phIdle ∧
  decode Config.hardware (.ph4 0b0011#4) = .ok .phAck1 ∧
  decode Config.hardware (.ph4 0b0111#4) = .ok .phBitdly ∧
  decode Config.hardware (.ph4 0b1000#4) = .ok .phFinish ∧
  decode Config.hardware (.ph4 0b1001#4) = .error (.noSuchPhase 9)

/-- Decoding an encoded well-formed instruction gives it back, for every instruction, operand and build. -/
def Obligations.DecodeEncode : Prop :=
  ∀ (c : Config) (i : Instr), i.WellFormed c → decode c (encode i) = .ok i

/-- A word decodes to one instruction only if it is that instruction's encoding, and the instruction is well-formed. -/
def Obligations.EncodeDecode : Prop :=
  ∀ (c : Config) (x : CodeWord) (i : Instr), decode c x = .ok i → encode i = x ∧ i.WellFormed c

/-- The whole of the command space by arithmetic on the word `(pin << 2) | q`: `q = w mod 4`, `pin = w div 4`. -/
def Obligations.CommandWordDecoding : Prop :=
  ∀ (c : Config) (w : CmdWord),
    let pin := BitVec.ofNat 6 (w.toNat / 4)
    (w.toNat % 4 = 3 → decode c (.cw8 w) = .ok (.reservedQ3 pin)) ∧
    (w.toNat % 4 ≠ 3 → c.nPins ≤ w.toNat / 4 → decode c (.cw8 w) = .error (.pinReserved pin)) ∧
    (w.toNat / 4 < c.nPins →
      (w.toNat % 4 = 0 → decode c (.cw8 w) = .ok (.readTC pin)) ∧
      (w.toNat % 4 = 1 → decode c (.cw8 w) = .ok (.readTF pin)) ∧
      (w.toNat % 4 = 2 → decode c (.cw8 w) = .ok (.readRH pin)))

/-! ## The step (R56) -/

/-- With `rst = 0`, when the word the step fetches (in IDLE with `cmd_valid = 1` the host's command word, else the phase
code in `ph`) decodes to `i`, the step is `exec i`, after which the inputs of the next step are current; a stop of `exec` is
a stop of the step. -/
def Obligations.StepRunsFetched : Prop :=
  ∀ (s : State) (i : Instr), (s.hostAt 0).rst = false →
    decode s.cfg
      (if s.ph = .idle ∧ (s.hostAt 0).cmdValid = true then .cw8 (s.hostAt 0).cmdWord else .ph4 s.ph.code) = .ok i →
    step s =
      match exec i s with
      | .next t => .next (nextInputs t)
      | .fault r => .fault r
      | .refused r => .refused r

/-- R56: with `rst = 0` the step executes the step rule of the phase `ph` holds, whatever the host presents: a command word
fetched in IDLE has the effect R58 gives it. -/
def Obligations.StepExecutesPhaseRule : Prop :=
  ∀ s : State, (s.hostAt 0).rst = false → step s = advanceOutcome (exec s.ph.instr s)

/-- R46: a reserved word presented in IDLE changes no state, and with `N_PINS = 1` the legal words are exactly 0x00, 0x01
and 0x02. -/
def Obligations.ReservedWordsIgnored : Prop :=
  (∀ s : State, s.ph = .idle → (s.hostAt 0).rst = false → (s.hostAt 0).cmdValid = true →
    ((s.hostAt 0).cmdWord.toNat % 4 = 3 ∨ s.cfg.nPins ≤ (s.hostAt 0).cmdWord.toNat / 4) →
    step s = .next (nextInputs { s with done := false })) ∧
  (∀ w : CmdWord, ¬ (w.toNat % 4 = 3 ∨ 1 ≤ w.toNat / 4) ↔ w = 0x00#8 ∨ w = 0x01#8 ∨ w = 0x02#8)

/-- R92: with `rst = 1` the next state is the reset state, from every state and whatever the other inputs are. -/
def Obligations.ResetWins : Prop :=
  ∀ s : State, (s.hostAt 0).rst = true → step s = .next (nextInputs (resetOf s))

/-- R93: while `rst` is held at 1 the block stays in the reset state and accepts nothing, every line released. -/
def Obligations.ResetHeld : Prop :=
  ∀ (s : State) (k : Nat), (∀ i, i ≤ k → (s.hostAt i).rst = true) →
    ∃ t, Runs (k + 1) s t ∧ t = resetOf t ∧ t.cfg = s.cfg ∧ ∀ p, lineRead p t = t.sensAt 0 p

/-! ## The commands (R50 to R55) -/

/-- A read command presented in IDLE on an existing line is accepted: the three commands complete in the state R58 gives,
and differ only in the latched quantity. -/
def Obligations.ReadCommandsAccepted : Prop :=
  ∀ (s : State) (pin : PinNo), s.ph = .idle → pin.toNat < s.cfg.nPins →
    exec (.readTC pin) s = .next (acceptedState .celsius pin s) ∧
    exec (.readTF pin) s = .next (acceptedState .fahrenheit pin s) ∧
    exec (.readRH pin) s = .next (acceptedState .humidity pin s)

/-- The reserved row `q = 3`, and a read on a pin that is no line, complete in IDLE and change nothing but `DONE <- 0`. -/
def Obligations.ReservedCommandsComplete : Prop :=
  ∀ (s : State) (pin : PinNo), s.ph = .idle →
    exec (.reservedQ3 pin) s = .next { s with done := false } ∧
    (s.cfg.nPins ≤ pin.toNat →
      exec (.readTC pin) s = .next { s with done := false } ∧
      exec (.readTF pin) s = .next { s with done := false } ∧
      exec (.readRH pin) s = .next { s with done := false })

/-- R55: a command word presented during a call is lost; the block takes the step of its phase. (That `exec` of a command
then runs the phase's rule is the model's reading, log 6.) -/
def Obligations.CommandWhileBusyLost : Prop :=
  ∀ (s : State) (pin : PinNo), s.ph ≠ .idle →
    exec (.readTC pin) s = exec s.ph.instr s ∧ exec (.readTF pin) s = exec s.ph.instr s ∧
    exec (.readRH pin) s = exec s.ph.instr s ∧ exec (.reservedQ3 pin) s = exec s.ph.instr s

/-- R55: while the block is not in IDLE, `cmd_valid` and `cmd_word` have no effect on the step. -/
def Obligations.BusyIgnoresCommands : Prop :=
  ∀ (s : State) (h h' : HostIn) (rest : List HostIn), s.ph ≠ .idle → h.rst = h'.rst →
    step { s with host := h :: rest } = step { s with host := h' :: rest }

/-! ## The phases (R58 to R68) -/

/-- R58: PH.IDLE accepts a presented word with `q != 3` and `pin < N_PINS`, with the operands of the word, and otherwise
changes nothing but `DONE <- 0`. -/
def Obligations.IdleRule : Prop :=
  ∀ s : State,
    let w := (s.hostAt 0).cmdWord.toNat
    ((s.hostAt 0).cmdValid = true ∧ w % 4 ≠ 3 ∧ w / 4 < s.cfg.nPins →
      ∃ q pin, q.code.toNat = w % 4 ∧ pin.toNat = w / 4 ∧ exec .phIdle s = .next (acceptedState q pin s)) ∧
    (¬ ((s.hostAt 0).cmdValid = true ∧ w % 4 ≠ 3 ∧ w / 4 < s.cfg.nPins) →
      exec .phIdle s = .next { s with done := false })

/-- R59: PH.START counts, and at the last step of the pulse releases the line and enters SETTLE. -/
def Obligations.StartRule : Prop :=
  ∀ s : State,
    (s.cnt + 1 = s.cfg.tStart → s.pin.toNat < s.cfg.nPins →
      exec .phStart s =
        .next { s with done := false, oeLow := s.oeLow.set s.pin.toNat false s.pin.isLt, ph := .settle, cnt := 0 }) ∧
    (s.cnt + 1 ≠ s.cfg.tStart → s.cnt + 1 < 2 ^ s.cfg.cntW →
      exec .phStart s = .next { s with done := false, cnt := s.cnt + 1 })

/-- R60: PH.SETTLE counts, and at its last step enters ACK1; it neither reads nor drives the line. -/
def Obligations.SettleRule : Prop :=
  ∀ s : State,
    (s.cnt + 1 = s.cfg.tSettle → exec .phSettle s = .next { s with done := false, ph := .ack1, cnt := 0 }) ∧
    (s.cnt + 1 ≠ s.cfg.tSettle → s.cnt + 1 < 2 ^ s.cfg.cntW →
      exec .phSettle s = .next { s with done := false, cnt := s.cnt + 1 })

/-- R61 to R65: the four waits are `WaitLevel` with their level, flag and next phase. -/
def Obligations.WaitRules : Prop :=
  WaitArms .phAck1 Config.ack1Level (fun s => { s with ackTo := true }) .ack2 ∧
  WaitArms .phAck2 Config.ack2Level (fun s => { s with ackTo := true }) .bitw1 ∧
  WaitArms .phBitw1 Config.bitw1Level (fun s => { s with bitTo := true }) .bitw2 ∧
  WaitArms .phBitw2 Config.bitw2Level (fun s => { s with bitTo := true }) .bitdly

/-- R67: PH.BITDLY counts, and at its last step stores the sampled level in `FB[bitidx]` alone, then goes to FINISH after
bit 39 and to BITW1 of the next bit otherwise. -/
def Obligations.BitdlyRule : Prop :=
  ∀ s : State,
    (s.cnt + 1 = s.cfg.tSample → s.pin.toNat < s.cfg.nPins → s.bitidx.toNat ≤ 39 →
      ∃ fb : FrameBuffer,
        (∀ j, j < 40 → cell fb j = if j = s.bitidx.toNat then lineRead s.pin s else cell s.fb j) ∧
        (s.bitidx.toNat = 39 →
          exec .phBitdly s = .next { s with done := false, fb := fb, ph := .finish, cnt := 0 }) ∧
        (s.bitidx.toNat < 39 →
          exec .phBitdly s =
            .next { s with done := false, fb := fb, bitidx := s.bitidx + 1#6, ph := .bitw1, cnt := 0 })) ∧
    (s.cnt + 1 ≠ s.cfg.tSample → s.cnt + 1 < 2 ^ s.cfg.cntW →
      exec .phBitdly s = .next { s with done := false, cnt := s.cnt + 1 })

/-- R68 to R73: PH.FINISH commits both registers on a valid frame and neither otherwise, reports from the values after
the commit, sets FRESH to the verdict, ends the call, and changes nothing else. Two clauses rest on the model's choices: that
FB keeps its bits is log 9 (R31 says so, R12 and U9 allow any value), and RESULT is stated for a pair within R74's bounds
before the step, outside which the narrowing of log 15 could cut it. -/
def Obligations.FinishRule : Prop :=
  ∀ s : State, ∃ t, exec .phFinish s = .next t ∧
    (ChecksumOk s.fb →
      t.lastH.toNat = 10 * frameByte s.fb 0 + frameByte s.fb 1 ∧
      t.lastT.toNat = 10 * frameByte s.fb 2 + frameByte s.fb 3 ∧ t.fresh = true) ∧
    (¬ ChecksumOk s.fb → t.lastH = s.lastH ∧ t.lastT = s.lastT ∧ t.fresh = false) ∧
    (s.lastH.toNat ≤ 2805 → s.lastT.toNat ≤ 2805 → t.result.toNat = reported s.q t.lastH.toNat t.lastT.toNat) ∧
    t = { s with
          lastH := t.lastH, lastT := t.lastT, result := t.result, fresh := t.fresh, busy := false, done := true,
          ph := .idle, cnt := 0 }

/-- The model's only stops (log 7), in states no run reaches: an access to a line that does not exist (R32) or to a frame
cell that does not exist (R33). Where they stop, that no instruction faults for another reason, and that none is ever
refused. -/
def Obligations.AbsentLineOrCellStops : Prop :=
  (∀ s : State, s.cfg.nPins ≤ s.pin.toNat →
    exec .phAck1 s = .fault (.noSuchLine s.pin) ∧ exec .phAck2 s = .fault (.noSuchLine s.pin) ∧
    exec .phBitw1 s = .fault (.noSuchLine s.pin) ∧ exec .phBitw2 s = .fault (.noSuchLine s.pin) ∧
    (s.cnt + 1 = s.cfg.tStart → exec .phStart s = .fault (.noSuchLine s.pin)) ∧
    (s.cnt + 1 = s.cfg.tSample → exec .phBitdly s = .fault (.noSuchLine s.pin))) ∧
  (∀ s : State, s.pin.toNat < s.cfg.nPins → s.cnt + 1 = s.cfg.tSample → 40 ≤ s.bitidx.toNat →
    exec .phBitdly s = .fault (.noSuchCell s.bitidx)) ∧
  (∀ (i : Instr) (s : State) (r : Fault), exec i s = .fault r →
    (s.cfg.nPins ≤ s.pin.toNat ∧ r = .noSuchLine s.pin) ∨ (40 ≤ s.bitidx.toNat ∧ r = .noSuchCell s.bitidx)) ∧
  (∀ (i : Instr) (s : State) (r : Refusal), exec i s ≠ .refused r)

/-! ## Whole-machine rules -/

/-- R31: write ownership. Without reset, a step changes a state element only in the phase and in the way its row names;
with reset it writes every element. -/
def Obligations.WriteOwnership : Prop :=
  ∀ s t : State, step s = .next t →
    ((s.hostAt 0).rst = true → t = nextInputs (resetOf s)) ∧
    ((s.hostAt 0).rst = false →
      (t.lastH ≠ s.lastH ∨ t.lastT ≠ s.lastT → s.ph = .finish ∧ ChecksumOk s.fb) ∧
      (t.fb ≠ s.fb →
        (s.ph = .idle ∧ t.ph = .start ∧ ∀ j, cell t.fb j = false) ∨
        (s.ph = .bitdly ∧ t.ph ≠ .bitdly ∧ ∀ j, j ≠ s.bitidx.toNat → cell t.fb j = cell s.fb j)) ∧
      (t.q ≠ s.q ∨ t.pin ≠ s.pin → s.ph = .idle ∧ t.ph = .start) ∧
      (t.ph ≠ s.ph → t.cnt = 0) ∧
      (t.ph = s.ph → t.cnt ≠ s.cnt → t.cnt = (s.cnt + 1) % 2 ^ s.cfg.cntW ∧ s.ph ≠ .idle ∧ s.ph ≠ .finish) ∧
      (t.bitidx ≠ s.bitidx →
        (s.ph = .idle ∧ t.ph = .start ∧ t.bitidx = 0#6) ∨
        (s.ph = .bitdly ∧ t.ph = .bitw1 ∧ t.bitidx = s.bitidx + 1#6)) ∧
      (∀ p, lineBit t.oeLow p ≠ lineBit s.oeLow p →
        (s.ph = .idle ∧ t.ph = .start ∧ p = t.pin ∧ lineBit t.oeLow p = true) ∨
        (s.ph = .start ∧ t.ph = .settle ∧ p = s.pin ∧ lineBit t.oeLow p = false)) ∧
      (t.result ≠ s.result → s.ph = .finish) ∧
      (t.busy ≠ s.busy → (s.ph = .idle ∧ t.ph = .start ∧ t.busy = true) ∨ (s.ph = .finish ∧ t.busy = false)) ∧
      t.done = decide (s.ph = .finish) ∧
      (t.fresh ≠ s.fresh → (s.ph = .idle ∧ t.ph = .start ∧ t.fresh = false) ∨ s.ph = .finish) ∧
      (t.ackTo ≠ s.ackTo →
        (s.ph = .idle ∧ t.ph = .start ∧ t.ackTo = false) ∨ ((s.ph = .ack1 ∨ s.ph = .ack2) ∧ TimesOut s ∧ t.ackTo = true)) ∧
      (t.bitTo ≠ s.bitTo →
        (s.ph = .idle ∧ t.ph = .start ∧ t.bitTo = false) ∨ ((s.ph = .bitw1 ∨ s.ph = .bitw2) ∧ TimesOut s ∧ t.bitTo = true)))

/-- R16: the phases advance strictly in order; the one backward transition is BITDLY to BITW1 while `bitidx < 39`. -/
def Obligations.PhasesInOrder : Prop :=
  ∀ s t : State, (s.hostAt 0).rst = false → step s = .next t → follows s t.ph

/-- R22: DONE is 1 in exactly the state a FINISH step produces. -/
def Obligations.DoneExactlyAfterFinish : Prop :=
  ∀ s t : State, step s = .next t → (t.done = true ↔ s.ph = .finish ∧ (s.hostAt 0).rst = false)

/-- R21: `BUSY = (ph != IDLE)` in every reachable state: it holds at reset and every step keeps it. -/
def Obligations.BusyTracksPhase : Prop :=
  (State.reset.busy = true ↔ State.reset.ph ≠ .idle) ∧
  ∀ s t : State, (s.busy = true ↔ s.ph ≠ .idle) → step s = .next t → (t.busy = true ↔ t.ph ≠ .idle)

/-- R42, R71: LAST_H and LAST_T move together. A step without reset leaves both, or is a FINISH step on a valid frame and
writes both from that one frame. -/
def Obligations.LastPairMovesTogether : Prop :=
  ∀ s t : State, (s.hostAt 0).rst = false → step s = .next t →
    (t.lastH = s.lastH ∧ t.lastT = s.lastT) ∨
    (s.ph = .finish ∧ ChecksumOk s.fb ∧
      t.lastH.toNat = 10 * frameByte s.fb 0 + frameByte s.fb 1 ∧
      t.lastT.toNat = 10 * frameByte s.fb 2 + frameByte s.fb 3)

/-- The invariant holds in the reset state. -/
def Obligations.ResetInvariant : Prop := State.reset.Inv

/-- Every step keeps the invariant, from every state that has it and for every build and input. -/
def Obligations.StepKeepsInvariant : Prop := ∀ s t : State, s.Inv → step s = .next t → t.Inv

/-- R80: the block raises nothing. From every state with the invariant a run of any length goes on, whatever the host and
the sensor do. -/
def Obligations.NothingIsRaised : Prop := ∀ s : State, s.Inv → SafeRun s

/-- A step moves on to the next inputs and leaves the build parameters as they are (R4, R7, R27; the lists that hold the
inputs are the model's, log 2). -/
def Obligations.StepTakesNextInputs : Prop :=
  ∀ s t : State, step s = .next t →
    t.cfg = s.cfg ∧ (∀ k, t.hostAt k = s.hostAt (k + 1)) ∧ (∀ k p, t.sensAt k p = s.sensAt (k + 1) p)

/-! ## The line (R37 to R40) -/

/-- R38: the line is low if the block or the sensor pulls it low, else high. -/
def Obligations.LineLevel : Prop :=
  ∀ (s : State) (p : PinNo),
    (lineBit s.oeLow p = true → lineRead p s = false) ∧
    (s.sensAt 0 p = false → lineRead p s = false) ∧
    (lineBit s.oeLow p = false → s.sensAt 0 p = true → lineRead p s = true)

/-- R40: in IDLE, START, SETTLE, FINISH and the steps of BITDLY before the last the sensor has no effect on the step; in
the other steps only the level of line `PIN` has. -/
def Obligations.SensorSeenOnlyWhenSampled : Prop :=
  ∀ (s : State) (v v' : Lines) (rest : List Lines),
    (s.ph = .idle ∨ s.ph = .start ∨ s.ph = .settle ∨ s.ph = .finish ∨ (s.ph = .bitdly ∧ s.cnt + 1 ≠ s.cfg.tSample) ∨
      lineBit v s.pin = lineBit v' s.pin) →
    step { s with sens := v :: rest } = step { s with sens := v' :: rest }

/-- R59, R60: after acceptance at step `a` the line reads low at the `T_START` steps `a+1 … a+T_START` whatever the sensor
does, is released from step `a+T_START+1`, and the first wait begins at `a+T_START+T_SETTLE+1`. -/
def Obligations.StartPulseAndSettle : Prop :=
  ∀ (s : State) (q : Quantity) (pin : PinNo), s.cfg.Legal → Accepts s q pin →
    NoReset s (s.cfg.tStart + s.cfg.tSettle + 1) →
    (∀ k, 1 ≤ k → k ≤ s.cfg.tStart →
      ∃ t, Runs k s t ∧ t.ph = .start ∧ t.cnt = k - 1 ∧ lineBit t.oeLow pin = true ∧ lineRead pin t = false) ∧
    (∀ k, 1 ≤ k → k ≤ s.cfg.tSettle →
      ∃ t, Runs (s.cfg.tStart + k) s t ∧ t.ph = .settle ∧ t.cnt = k - 1 ∧ lineBit t.oeLow pin = false) ∧
    (∃ t, Runs (s.cfg.tStart + s.cfg.tSettle + 1) s t ∧ t.ph = .ack1 ∧ t.cnt = 0)

/-! ## Frame and numbers (R34, R47, R48, R70, R75) -/

/-- R34: cell `8k+j` is bit `7-j` of byte `k`, and the whole frame read as a 40-bit number with `FB[0]` most significant
is the five bytes in order. -/
def Obligations.FrameBitOrder : Prop :=
  ∀ fb : FrameBuffer,
    (∀ k j, k < 5 → j < 8 → (frameByte fb k).testBit (7 - j) = cell fb (8 * k + j)) ∧
    (∀ k, frameByte fb k < 256) ∧
    (List.range 40).foldl (fun n i => 2 * n + cellBit fb i) 0 =
      frameByte fb 0 * 2 ^ 32 + frameByte fb 1 * 2 ^ 24 + frameByte fb 2 * 2 ^ 16 + frameByte fb 3 * 2 ^ 8 + frameByte fb 4

/-- R70: a frame is valid exactly when the low 8 bits of the sum of bytes 0 to 3 are byte 4; so the all-zero frame is
valid and the all-ones frame is not. -/
def Obligations.ChecksumVerdict : Prop :=
  ∀ fb : FrameBuffer,
    (validate (frameBytes fb) = true ↔
      (frameByte fb 0 + frameByte fb 1 + frameByte fb 2 + frameByte fb 3) &&& 0xFF = frameByte fb 4) ∧
    ((∀ i, i < 40 → cell fb i = false) → validate (frameBytes fb) = true) ∧
    ((∀ i, i < 40 → cell fb i = true) → validate (frameBytes fb) = false)

/-- R48, R75: the scaled integers are the exact rationals of the formulas: Fahrenheit is `C*1.8 + 32` for every integer
number of tenths, negative ones included, and the three reports are the exact values. -/
def Obligations.ConversionExact : Prop :=
  (∀ t : Int, ofHundredths (fahrenheitX100 t) = ofTenths t * (9 / 5) + 32) ∧
  (∀ h t : Nat, ofHundredths (report .celsius h t) = ofTenths t ∧
    ofHundredths (report .fahrenheit h t) = ofTenths t * (9 / 5) + 32 ∧
    ofHundredths (report .humidity h t) = ofTenths h) ∧
  (∀ b b' : Nat, ofTenths (10 * b + b' : Nat) = b + b' * (1 / 10))

/-- R77: after FINISH on a valid frame the two registers stand for `b0 + b1*0.1` and `b2 + b3*0.1`; on any other frame
they are what they were. -/
def Obligations.UpdateLaw : Prop :=
  ∀ s : State, ∃ t, exec .phFinish s = .next t ∧
    (ChecksumOk s.fb →
      ofTenths t.lastH.toNat = frameByte s.fb 0 + frameByte s.fb 1 * (1 / 10) ∧
      ofTenths t.lastT.toNat = frameByte s.fb 2 + frameByte s.fb 3 * (1 / 10)) ∧
    (¬ ChecksumOk s.fb → t.lastH = s.lastH ∧ t.lastT = s.lastT)

/-- R78: a second FINISH on the same valid frame leaves the pair as the first left it, and with the same quantity the same
RESULT. (The other elements FINISH writes are in FinishRule.) -/
def Obligations.FinishIdempotent : Prop :=
  ∀ s t u : State, exec .phFinish s = .next t → ChecksumOk s.fb →
    u.fb = s.fb → u.lastH = t.lastH → u.lastT = t.lastT →
    ∃ v, exec .phFinish u = .next v ∧ v.lastH = t.lastH ∧ v.lastT = t.lastT ∧ (u.q = s.q → v.result = t.result)

/-- R79: with both registers at 0, an invalid frame leaves them at 0 and returns 0, 3200 and 0; the all-zero frame returns
the same numbers with FRESH = 1. -/
def Obligations.FirstCall : Prop :=
  ∀ s : State, s.lastH = 0#12 → s.lastT = 0#12 → (¬ ChecksumOk s.fb ∨ ∀ i, i < 40 → cell s.fb i = false) →
    ∃ t, exec .phFinish s = .next t ∧ t.lastH = 0#12 ∧ t.lastT = 0#12 ∧
      t.result = (if s.q = .fahrenheit then 3200#16 else 0#16) ∧
      (t.fresh = true ↔ ∀ i, i < 40 → cell s.fb i = false)

/-! ## The call (R51 to R54, R96 to R98) -/

/-- R98: the capture in closed form, for every legal bounded build. From the acceptance step, with no reset, FINISH
executes at the step the recurrence gives, with the frame buffer holding the line's level at the 40 sample steps, and
the two timeout flags telling which waits timed out. (Unbounded builds: UnboundedCaptureClosedForm.) -/
def Obligations.CaptureClosedForm : Prop :=
  ∀ (s : State) (q : Quantity) (pin : PinNo), s.cfg.Legal → s.cfg.bounded = true → Accepts s q pin →
    let L := levelFrom s pin
    NoReset s (finishAt s.cfg L 0) →
    ∃ u, Runs (finishAt s.cfg L 0) s u ∧ u.ph = .finish ∧ u.q = q ∧ u.pin = pin ∧
      (∀ i, i < 40 → cell u.fb i = L (bitSample s.cfg L 0 i)) ∧
      u.ackTo = ackTimesOut s.cfg L 0 ∧ u.bitTo = bitTimesOut s.cfg L 0 ∧
      u.lastH = s.lastH ∧ u.lastT = s.lastT ∧ u.result = s.result

/-- R54: the call as a function. The step after FINISH shows DONE, and RESULT, LAST_H, LAST_T and FRESH are
`Call(q, fb, h, t)` of the captured frame and the registers before the call. -/
def Obligations.CallIsFunction : Prop :=
  ∀ (s : State) (q : Quantity) (pin : PinNo), s.cfg.Legal → s.cfg.bounded = true → Accepts s q pin →
    let L := levelFrom s pin
    NoReset s (finishAt s.cfg L 0 + 1) →
    ∃ t, Runs (finishAt s.cfg L 0 + 1) s t ∧ t.ph = .idle ∧ t.busy = false ∧ t.done = true ∧
      (⟨t.result, t.lastH, t.lastT, t.fresh⟩ : CallResult) = call q (capture s.cfg L 0) s.lastH s.lastT

/-- R51, R52, R53: what the three commands return, as numbers, from the captured frame and the registers before the call. -/
def Obligations.ReadResults : Prop :=
  ∀ (s : State) (q : Quantity) (pin : PinNo), s.Inv → s.cfg.bounded = true → Accepts s q pin →
    let L := levelFrom s pin
    let fb := capture s.cfg L 0
    NoReset s (finishAt s.cfg L 0 + 1) →
    ∃ t, Runs (finishAt s.cfg L 0 + 1) s t ∧ t.done = true ∧
      (ChecksumOk fb →
        t.lastH.toNat = 10 * frameByte fb 0 + frameByte fb 1 ∧ t.lastT.toNat = 10 * frameByte fb 2 + frameByte fb 3) ∧
      (¬ ChecksumOk fb → t.lastH = s.lastH ∧ t.lastT = s.lastT) ∧
      (q = .celsius → t.result.toNat = 10 * t.lastT.toNat) ∧
      (q = .fahrenheit → t.result.toNat = 18 * t.lastT.toNat + 3200) ∧
      (q = .humidity → t.result.toNat = 10 * t.lastH.toNat)

/-- R20, R30: during a call BUSY is 1, DONE is 0, and RESULT, LAST_H and LAST_T keep the values before the call. -/
def Obligations.OutputsHeldDuringCall : Prop :=
  ∀ (s : State) (q : Quantity) (pin : PinNo), s.cfg.Legal → s.cfg.bounded = true → Accepts s q pin →
    let L := levelFrom s pin
    NoReset s (finishAt s.cfg L 0) →
    ∀ k, 1 ≤ k → k ≤ finishAt s.cfg L 0 →
      ∃ t, Runs k s t ∧ t.busy = true ∧ t.done = false ∧ t.result = s.result ∧ t.lastH = s.lastH ∧ t.lastT = s.lastT

/-- R97: the length of a call, from the acceptance step to the FINISH step inclusive, lies between the shortest and the
longest for every line history; with this hardware's values these are 19244 and 27362 steps, and with its TICK (R4) 19244 and
27362 microseconds, of which the start pulse takes 18000. -/
def Obligations.CallDuration : Prop :=
  (∀ (c : Config) (L : Nat → Level) (a : Nat), c.Legal →
    a + shortestCall c ≤ finishAt c L a + 1 ∧ finishAt c L a + 1 ≤ a + longestCall c) ∧
  shortestCall Config.hardware = 19244 ∧ longestCall Config.hardware = 27362 ∧
  Config.hardware.micros (shortestCall Config.hardware) = 19244 ∧
  Config.hardware.micros (longestCall Config.hardware) = 27362 ∧ Config.hardware.micros Config.hardware.tStart = 18000

/-- R97: every call ends. From any state with the invariant that is not in IDLE, in a bounded build and with no reset,
the call is over within the longest call's length, whatever the sensor and the host do. -/
def Obligations.EveryCallEnds : Prop :=
  ∀ s : State, s.Inv → s.cfg.bounded = true → s.ph ≠ .idle → NoReset s (longestCall s.cfg) →
    ∃ k t, k < longestCall s.cfg ∧ Runs k s t ∧ t.done = true ∧ t.busy = false ∧ t.ph = .idle

/-- R96: no sensor. A line that reads high throughout, with the default levels, gives the all-ones frame at FINISH, both
timeout flags and a stale result: the registers keep their values, and RESULT is the report of the old pair (for a pair
within R74's bounds, log 15). -/
def Obligations.NoSensorIsStale : Prop :=
  ∀ (s : State) (q : Quantity) (pin : PinNo), s.cfg.Legal → s.cfg.bounded = true → DefaultLevels s.cfg →
    Accepts s q pin →
    let n := s.cfg.tStart + s.cfg.tSettle + s.cfg.tTimeout + 1 + 40 * (1 + s.cfg.tTimeout + s.cfg.tSample) + 1
    NoReset s (n + 1) → (∀ k, k ≤ n → levelFrom s pin k = true) →
    (∃ u, Runs n s u ∧ u.ph = .finish ∧ ∀ i, i < 40 → cell u.fb i = true) ∧
    ∃ t, Runs (n + 1) s t ∧ t.done = true ∧ t.lastH = s.lastH ∧ t.lastT = s.lastT ∧
      (s.lastH.toNat ≤ 2805 → s.lastT.toNat ≤ 2805 → t.result.toNat = reported q s.lastH.toNat s.lastT.toNat) ∧
      t.fresh = false ∧ t.ackTo = true ∧ t.bitTo = true

/-- R96: a dead line. A line that reads low throughout, with the default levels, gives the valid all-zero frame at FINISH:
the call commits zeros, whatever the pair was, and reports them, with FRESH = 1 and both timeout flags set. -/
def Obligations.DeadLineCommitsZeros : Prop :=
  ∀ (s : State) (q : Quantity) (pin : PinNo), s.cfg.Legal → s.cfg.bounded = true → DefaultLevels s.cfg →
    Accepts s q pin →
    let n := s.cfg.tStart + s.cfg.tSettle + s.cfg.tTimeout + 1 + 40 * (1 + s.cfg.tTimeout + s.cfg.tSample) + 1
    NoReset s (n + 1) → (∀ k, k ≤ n → levelFrom s pin k = false) →
    (∃ u, Runs n s u ∧ u.ph = .finish ∧ ∀ i, i < 40 → cell u.fb i = false) ∧
    ∃ t, Runs (n + 1) s t ∧ t.done = true ∧ t.lastH = 0#12 ∧ t.lastT = 0#12 ∧ t.result.toNat = reported q 0 0 ∧
      t.fresh = true ∧ t.ackTo = true ∧ t.bitTo = true

/-! ## The unbounded variant (R66, R101) -/

/-- R101: without BOUNDED a wait for a level that does not come stays, with BUSY and every other element unchanged. -/
def Obligations.UnboundedWaitHangs : Prop :=
  ∀ (s : State) (v : Level) (k : Nat), s.cfg.bounded = false → awaited s.cfg s.ph = some v →
    s.pin.toNat < s.cfg.nPins → lineBit s.oeLow s.pin = false → NoReset s k →
    (∀ i, i < k → s.sensAt i s.pin ≠ v) →
    ∃ t, Runs k s t ∧ (1 ≤ k → t.done = false) ∧
      t = { s with done := t.done, host := t.host, sens := t.sens, tick := t.tick }

/-- R66: without BOUNDED no step sets ACK_TO or BIT_TO. -/
def Obligations.UnboundedSetsNoFlag : Prop :=
  ∀ s t : State, s.cfg.bounded = false → step s = .next t →
    (t.ackTo = true → s.ackTo = true) ∧ (t.bitTo = true → s.bitTo = true)

/-- R98, R66: the capture in closed form for an unbounded build whose waits all end. `T` is any number of samples within
which every wait sees its level; the build's own bound plays no part. FINISH executes at the step the recurrence gives, with
the line's level at the 40 sample steps in the frame buffer and both timeout flags 0. -/
def Obligations.UnboundedCaptureClosedForm : Prop :=
  ∀ (s : State) (q : Quantity) (pin : PinNo) (T : Nat), s.cfg.Legal → s.cfg.bounded = false → Accepts s q pin →
    let L := levelFrom s pin
    let c := { s.cfg with tTimeout := T }
    ackTimesOut c L 0 = false → bitTimesOut c L 0 = false → NoReset s (finishAt c L 0) →
    ∃ u, Runs (finishAt c L 0) s u ∧ u.ph = .finish ∧ u.q = q ∧ u.pin = pin ∧
      (∀ i, i < 40 → cell u.fb i = L (bitSample c L 0 i)) ∧ u.ackTo = false ∧ u.bitTo = false ∧
      u.lastH = s.lastH ∧ u.lastT = s.lastT ∧ u.result = s.result

/-- R66: the two variants take the same step whenever no wait is at its last failed sample. -/
def Obligations.VariantsAgree : Prop :=
  ∀ s t : State, s.Inv → s.cfg.bounded = true →
    (∀ v, awaited s.cfg s.ph = some v → lineRead s.pin s = v ∨ s.cnt + 1 < s.cfg.tTimeout) →
    step s = .next t → step (unboundedView s) = .next (unboundedView t)

/-! ## Independence -/

/-- R73: no rule reads FRESH, ACK_TO or BIT_TO. Replacing them changes nothing else over a run of any length. -/
def Obligations.FlagsAreNeverRead : Prop :=
  ∀ (k : Nat) (s t : State) (f a b : Bool), Runs k s t →
    ∃ f' a' b', Runs k (withFlags f a b s) (withFlags f' a' b' t)

/-- The line activity and the captured bits do not depend on the quantity asked for (R50's template): between acceptance
and FINISH, Q changes nothing but itself. -/
def Obligations.CaptureIndependentOfQuantity : Prop :=
  ∀ (s t : State) (q : Quantity), capturing s.ph = true → (s.hostAt 0).rst = false → step s = .next t →
    step { s with q := q } = .next { t with q := q }

/-! ## The host's view (R29, R49) -/

/-- R29, R49: the five register numbers, what they read, the bits of the status word, and the tag of a completed call. -/
def Obligations.HostRegisterReads : Prop :=
  hostRegOf 0 = some .cmd ∧ hostRegOf 1 = some .status ∧ hostRegOf 2 = some .result ∧ hostRegOf 3 = some .lastH ∧
  hostRegOf 4 = some .lastT ∧
  ∀ s : State,
    (s.busy = false → tag s = some (if s.fresh = true then .fresh else if s.ackTo = true then .noResponse else .stale)) ∧
    hostRead .cmd s = 0#16 ∧
    (hostRead .status s).toNat = s.busy.toNat + 2 * s.fresh.toNat + 4 * s.ackTo.toNat + 8 * s.bitTo.toNat ∧
    hostRead .result s = s.result ∧
    (hostRead .lastH s).toNat = s.lastH.toNat ∧ (hostRead .lastT s).toNat = s.lastT.toNat

/-- R29: a write to CMD of the word of a read command, in IDLE and without reset, is that command presented at this step:
the block accepts it. A write to any other register is ignored. -/
def Obligations.HostWritePresentsCommand : Prop :=
  (∀ (s : State) (q : Quantity) (pin : PinNo), s.ph = .idle → (s.hostAt 0).rst = false → pin.toNat < s.cfg.nPins →
    step (hostWrite .cmd (commandWord pin q.code) s) = .next (nextInputs (acceptedState q pin s))) ∧
  (∀ (s : State) (v : CmdWord),
    hostWrite .status v s = s ∧ hostWrite .result v s = s ∧ hostWrite .lastH v s = s ∧ hostWrite .lastT v s = s)
end

