-- ==== Sys2Proof/Laws/State.lean ====
section
/-! SUPPORT. One lemma per field per state update, so that no proof unfolds a record update. -/

namespace Sys2Proof.Machine

@[simp] theorem clearDone_lastH (s : State) : (clearDone s).lastH = s.lastH := rfl
@[simp] theorem clearDone_lastT (s : State) : (clearDone s).lastT = s.lastT := rfl
@[simp] theorem clearDone_fb (s : State) : (clearDone s).fb = s.fb := rfl
@[simp] theorem clearDone_q (s : State) : (clearDone s).q = s.q := rfl
@[simp] theorem clearDone_pin (s : State) : (clearDone s).pin = s.pin := rfl
@[simp] theorem clearDone_ph (s : State) : (clearDone s).ph = s.ph := rfl
@[simp] theorem clearDone_cnt (s : State) : (clearDone s).cnt = s.cnt := rfl
@[simp] theorem clearDone_bitidx (s : State) : (clearDone s).bitidx = s.bitidx := rfl
@[simp] theorem clearDone_oeLow (s : State) : (clearDone s).oeLow = s.oeLow := rfl
@[simp] theorem clearDone_result (s : State) : (clearDone s).result = s.result := rfl
@[simp] theorem clearDone_busy (s : State) : (clearDone s).busy = s.busy := rfl
@[simp] theorem clearDone_done (s : State) : (clearDone s).done = false := rfl
@[simp] theorem clearDone_fresh (s : State) : (clearDone s).fresh = s.fresh := rfl
@[simp] theorem clearDone_ackTo (s : State) : (clearDone s).ackTo = s.ackTo := rfl
@[simp] theorem clearDone_bitTo (s : State) : (clearDone s).bitTo = s.bitTo := rfl
@[simp] theorem clearDone_cfg (s : State) : (clearDone s).cfg = s.cfg := rfl
@[simp] theorem clearDone_host (s : State) : (clearDone s).host = s.host := rfl
@[simp] theorem clearDone_sens (s : State) : (clearDone s).sens = s.sens := rfl
@[simp] theorem clearDone_tick (s : State) : (clearDone s).tick = s.tick := rfl

@[simp] theorem enterPhase_lastH (p : Phase) (s : State) : (enterPhase p s).lastH = s.lastH := rfl
@[simp] theorem enterPhase_lastT (p : Phase) (s : State) : (enterPhase p s).lastT = s.lastT := rfl
@[simp] theorem enterPhase_fb (p : Phase) (s : State) : (enterPhase p s).fb = s.fb := rfl
@[simp] theorem enterPhase_q (p : Phase) (s : State) : (enterPhase p s).q = s.q := rfl
@[simp] theorem enterPhase_pin (p : Phase) (s : State) : (enterPhase p s).pin = s.pin := rfl
@[simp] theorem enterPhase_ph (p : Phase) (s : State) : (enterPhase p s).ph = p := rfl
@[simp] theorem enterPhase_cnt (p : Phase) (s : State) : (enterPhase p s).cnt = 0 := rfl
@[simp] theorem enterPhase_bitidx (p : Phase) (s : State) : (enterPhase p s).bitidx = s.bitidx := rfl
@[simp] theorem enterPhase_oeLow (p : Phase) (s : State) : (enterPhase p s).oeLow = s.oeLow := rfl
@[simp] theorem enterPhase_result (p : Phase) (s : State) : (enterPhase p s).result = s.result := rfl
@[simp] theorem enterPhase_busy (p : Phase) (s : State) : (enterPhase p s).busy = s.busy := rfl
@[simp] theorem enterPhase_done (p : Phase) (s : State) : (enterPhase p s).done = s.done := rfl
@[simp] theorem enterPhase_fresh (p : Phase) (s : State) : (enterPhase p s).fresh = s.fresh := rfl
@[simp] theorem enterPhase_ackTo (p : Phase) (s : State) : (enterPhase p s).ackTo = s.ackTo := rfl
@[simp] theorem enterPhase_bitTo (p : Phase) (s : State) : (enterPhase p s).bitTo = s.bitTo := rfl
@[simp] theorem enterPhase_cfg (p : Phase) (s : State) : (enterPhase p s).cfg = s.cfg := rfl
@[simp] theorem enterPhase_host (p : Phase) (s : State) : (enterPhase p s).host = s.host := rfl
@[simp] theorem enterPhase_sens (p : Phase) (s : State) : (enterPhase p s).sens = s.sens := rfl
@[simp] theorem enterPhase_tick (p : Phase) (s : State) : (enterPhase p s).tick = s.tick := rfl

@[simp] theorem countUp_lastH (s : State) : (countUp s).lastH = s.lastH := rfl
@[simp] theorem countUp_lastT (s : State) : (countUp s).lastT = s.lastT := rfl
@[simp] theorem countUp_fb (s : State) : (countUp s).fb = s.fb := rfl
@[simp] theorem countUp_q (s : State) : (countUp s).q = s.q := rfl
@[simp] theorem countUp_pin (s : State) : (countUp s).pin = s.pin := rfl
@[simp] theorem countUp_ph (s : State) : (countUp s).ph = s.ph := rfl
@[simp] theorem countUp_cnt (s : State) : (countUp s).cnt = (s.cnt + 1) % 2 ^ s.cfg.cntW := rfl
@[simp] theorem countUp_bitidx (s : State) : (countUp s).bitidx = s.bitidx := rfl
@[simp] theorem countUp_oeLow (s : State) : (countUp s).oeLow = s.oeLow := rfl
@[simp] theorem countUp_result (s : State) : (countUp s).result = s.result := rfl
@[simp] theorem countUp_busy (s : State) : (countUp s).busy = s.busy := rfl
@[simp] theorem countUp_done (s : State) : (countUp s).done = s.done := rfl
@[simp] theorem countUp_fresh (s : State) : (countUp s).fresh = s.fresh := rfl
@[simp] theorem countUp_ackTo (s : State) : (countUp s).ackTo = s.ackTo := rfl
@[simp] theorem countUp_bitTo (s : State) : (countUp s).bitTo = s.bitTo := rfl
@[simp] theorem countUp_cfg (s : State) : (countUp s).cfg = s.cfg := rfl
@[simp] theorem countUp_host (s : State) : (countUp s).host = s.host := rfl
@[simp] theorem countUp_sens (s : State) : (countUp s).sens = s.sens := rfl
@[simp] theorem countUp_tick (s : State) : (countUp s).tick = s.tick := rfl

@[simp] theorem lineDrive_lastH (p : PinNo) (d : Bool) (s : State) : (lineDrive p d s).lastH = s.lastH := rfl
@[simp] theorem lineDrive_lastT (p : PinNo) (d : Bool) (s : State) : (lineDrive p d s).lastT = s.lastT := rfl
@[simp] theorem lineDrive_fb (p : PinNo) (d : Bool) (s : State) : (lineDrive p d s).fb = s.fb := rfl
@[simp] theorem lineDrive_q (p : PinNo) (d : Bool) (s : State) : (lineDrive p d s).q = s.q := rfl
@[simp] theorem lineDrive_pin (p : PinNo) (d : Bool) (s : State) : (lineDrive p d s).pin = s.pin := rfl
@[simp] theorem lineDrive_ph (p : PinNo) (d : Bool) (s : State) : (lineDrive p d s).ph = s.ph := rfl
@[simp] theorem lineDrive_cnt (p : PinNo) (d : Bool) (s : State) : (lineDrive p d s).cnt = s.cnt := rfl
@[simp] theorem lineDrive_bitidx (p : PinNo) (d : Bool) (s : State) : (lineDrive p d s).bitidx = s.bitidx := rfl
@[simp] theorem lineDrive_oeLow (p : PinNo) (d : Bool) (s : State) : (lineDrive p d s).oeLow = s.oeLow.set p.toNat d p.isLt := rfl
@[simp] theorem lineDrive_result (p : PinNo) (d : Bool) (s : State) : (lineDrive p d s).result = s.result := rfl
@[simp] theorem lineDrive_busy (p : PinNo) (d : Bool) (s : State) : (lineDrive p d s).busy = s.busy := rfl
@[simp] theorem lineDrive_done (p : PinNo) (d : Bool) (s : State) : (lineDrive p d s).done = s.done := rfl
@[simp] theorem lineDrive_fresh (p : PinNo) (d : Bool) (s : State) : (lineDrive p d s).fresh = s.fresh := rfl
@[simp] theorem lineDrive_ackTo (p : PinNo) (d : Bool) (s : State) : (lineDrive p d s).ackTo = s.ackTo := rfl
@[simp] theorem lineDrive_bitTo (p : PinNo) (d : Bool) (s : State) : (lineDrive p d s).bitTo = s.bitTo := rfl
@[simp] theorem lineDrive_cfg (p : PinNo) (d : Bool) (s : State) : (lineDrive p d s).cfg = s.cfg := rfl
@[simp] theorem lineDrive_host (p : PinNo) (d : Bool) (s : State) : (lineDrive p d s).host = s.host := rfl
@[simp] theorem lineDrive_sens (p : PinNo) (d : Bool) (s : State) : (lineDrive p d s).sens = s.sens := rfl
@[simp] theorem lineDrive_tick (p : PinNo) (d : Bool) (s : State) : (lineDrive p d s).tick = s.tick := rfl

@[simp] theorem storeSample_lastH (s : State) : (storeSample s).lastH = s.lastH := rfl
@[simp] theorem storeSample_lastT (s : State) : (storeSample s).lastT = s.lastT := rfl
@[simp] theorem storeSample_fb (s : State) : (storeSample s).fb = s.fb.setIfInBounds s.bitidx.toNat (lineRead s.pin s) := rfl
@[simp] theorem storeSample_q (s : State) : (storeSample s).q = s.q := rfl
@[simp] theorem storeSample_pin (s : State) : (storeSample s).pin = s.pin := rfl
@[simp] theorem storeSample_ph (s : State) : (storeSample s).ph = s.ph := rfl
@[simp] theorem storeSample_cnt (s : State) : (storeSample s).cnt = s.cnt := rfl
@[simp] theorem storeSample_bitidx (s : State) : (storeSample s).bitidx = s.bitidx := rfl
@[simp] theorem storeSample_oeLow (s : State) : (storeSample s).oeLow = s.oeLow := rfl
@[simp] theorem storeSample_result (s : State) : (storeSample s).result = s.result := rfl
@[simp] theorem storeSample_busy (s : State) : (storeSample s).busy = s.busy := rfl
@[simp] theorem storeSample_done (s : State) : (storeSample s).done = s.done := rfl
@[simp] theorem storeSample_fresh (s : State) : (storeSample s).fresh = s.fresh := rfl
@[simp] theorem storeSample_ackTo (s : State) : (storeSample s).ackTo = s.ackTo := rfl
@[simp] theorem storeSample_bitTo (s : State) : (storeSample s).bitTo = s.bitTo := rfl
@[simp] theorem storeSample_cfg (s : State) : (storeSample s).cfg = s.cfg := rfl
@[simp] theorem storeSample_host (s : State) : (storeSample s).host = s.host := rfl
@[simp] theorem storeSample_sens (s : State) : (storeSample s).sens = s.sens := rfl
@[simp] theorem storeSample_tick (s : State) : (storeSample s).tick = s.tick := rfl

@[simp] theorem accept_lastH (q : Quantity) (p : PinNo) (s : State) : (accept q p s).lastH = s.lastH := rfl
@[simp] theorem accept_lastT (q : Quantity) (p : PinNo) (s : State) : (accept q p s).lastT = s.lastT := rfl
@[simp] theorem accept_fb (q : Quantity) (p : PinNo) (s : State) : (accept q p s).fb = Vector.replicate 40 false := rfl
@[simp] theorem accept_q (q : Quantity) (p : PinNo) (s : State) : (accept q p s).q = q := rfl
@[simp] theorem accept_pin (q : Quantity) (p : PinNo) (s : State) : (accept q p s).pin = p := rfl
@[simp] theorem accept_ph (q : Quantity) (p : PinNo) (s : State) : (accept q p s).ph = .start := rfl
@[simp] theorem accept_cnt (q : Quantity) (p : PinNo) (s : State) : (accept q p s).cnt = 0 := rfl
@[simp] theorem accept_bitidx (q : Quantity) (p : PinNo) (s : State) : (accept q p s).bitidx = 0#6 := rfl
@[simp] theorem accept_oeLow (q : Quantity) (p : PinNo) (s : State) : (accept q p s).oeLow = s.oeLow.set p.toNat true p.isLt := rfl
@[simp] theorem accept_result (q : Quantity) (p : PinNo) (s : State) : (accept q p s).result = s.result := rfl
@[simp] theorem accept_busy (q : Quantity) (p : PinNo) (s : State) : (accept q p s).busy = true := rfl
@[simp] theorem accept_done (q : Quantity) (p : PinNo) (s : State) : (accept q p s).done = s.done := rfl
@[simp] theorem accept_fresh (q : Quantity) (p : PinNo) (s : State) : (accept q p s).fresh = false := rfl
@[simp] theorem accept_ackTo (q : Quantity) (p : PinNo) (s : State) : (accept q p s).ackTo = false := rfl
@[simp] theorem accept_bitTo (q : Quantity) (p : PinNo) (s : State) : (accept q p s).bitTo = false := rfl
@[simp] theorem accept_cfg (q : Quantity) (p : PinNo) (s : State) : (accept q p s).cfg = s.cfg := rfl
@[simp] theorem accept_host (q : Quantity) (p : PinNo) (s : State) : (accept q p s).host = s.host := rfl
@[simp] theorem accept_sens (q : Quantity) (p : PinNo) (s : State) : (accept q p s).sens = s.sens := rfl
@[simp] theorem accept_tick (q : Quantity) (p : PinNo) (s : State) : (accept q p s).tick = s.tick := rfl

@[simp] theorem advance_lastH (s : State) : (advance s).lastH = s.lastH := rfl
@[simp] theorem advance_lastT (s : State) : (advance s).lastT = s.lastT := rfl
@[simp] theorem advance_fb (s : State) : (advance s).fb = s.fb := rfl
@[simp] theorem advance_q (s : State) : (advance s).q = s.q := rfl
@[simp] theorem advance_pin (s : State) : (advance s).pin = s.pin := rfl
@[simp] theorem advance_ph (s : State) : (advance s).ph = s.ph := rfl
@[simp] theorem advance_cnt (s : State) : (advance s).cnt = s.cnt := rfl
@[simp] theorem advance_bitidx (s : State) : (advance s).bitidx = s.bitidx := rfl
@[simp] theorem advance_oeLow (s : State) : (advance s).oeLow = s.oeLow := rfl
@[simp] theorem advance_result (s : State) : (advance s).result = s.result := rfl
@[simp] theorem advance_busy (s : State) : (advance s).busy = s.busy := rfl
@[simp] theorem advance_done (s : State) : (advance s).done = s.done := rfl
@[simp] theorem advance_fresh (s : State) : (advance s).fresh = s.fresh := rfl
@[simp] theorem advance_ackTo (s : State) : (advance s).ackTo = s.ackTo := rfl
@[simp] theorem advance_bitTo (s : State) : (advance s).bitTo = s.bitTo := rfl
@[simp] theorem advance_cfg (s : State) : (advance s).cfg = s.cfg := rfl
@[simp] theorem advance_host (s : State) : (advance s).host = s.host.tail := rfl
@[simp] theorem advance_sens (s : State) : (advance s).sens = s.sens.tail := rfl
@[simp] theorem advance_tick (s : State) : (advance s).tick = s.tick + 1 := rfl

@[simp] theorem raiseFlag_lastH (f : TimeoutFlag) (s : State) : (raiseFlag f s).lastH = s.lastH := by cases f <;> rfl
@[simp] theorem raiseFlag_lastT (f : TimeoutFlag) (s : State) : (raiseFlag f s).lastT = s.lastT := by cases f <;> rfl
@[simp] theorem raiseFlag_fb (f : TimeoutFlag) (s : State) : (raiseFlag f s).fb = s.fb := by cases f <;> rfl
@[simp] theorem raiseFlag_q (f : TimeoutFlag) (s : State) : (raiseFlag f s).q = s.q := by cases f <;> rfl
@[simp] theorem raiseFlag_pin (f : TimeoutFlag) (s : State) : (raiseFlag f s).pin = s.pin := by cases f <;> rfl
@[simp] theorem raiseFlag_ph (f : TimeoutFlag) (s : State) : (raiseFlag f s).ph = s.ph := by cases f <;> rfl
@[simp] theorem raiseFlag_cnt (f : TimeoutFlag) (s : State) : (raiseFlag f s).cnt = s.cnt := by cases f <;> rfl
@[simp] theorem raiseFlag_bitidx (f : TimeoutFlag) (s : State) : (raiseFlag f s).bitidx = s.bitidx := by cases f <;> rfl
@[simp] theorem raiseFlag_oeLow (f : TimeoutFlag) (s : State) : (raiseFlag f s).oeLow = s.oeLow := by cases f <;> rfl
@[simp] theorem raiseFlag_result (f : TimeoutFlag) (s : State) : (raiseFlag f s).result = s.result := by cases f <;> rfl
@[simp] theorem raiseFlag_busy (f : TimeoutFlag) (s : State) : (raiseFlag f s).busy = s.busy := by cases f <;> rfl
@[simp] theorem raiseFlag_done (f : TimeoutFlag) (s : State) : (raiseFlag f s).done = s.done := by cases f <;> rfl
@[simp] theorem raiseFlag_fresh (f : TimeoutFlag) (s : State) : (raiseFlag f s).fresh = s.fresh := by cases f <;> rfl
@[simp] theorem raiseFlag_cfg (f : TimeoutFlag) (s : State) : (raiseFlag f s).cfg = s.cfg := by cases f <;> rfl
@[simp] theorem raiseFlag_host (f : TimeoutFlag) (s : State) : (raiseFlag f s).host = s.host := by cases f <;> rfl
@[simp] theorem raiseFlag_sens (f : TimeoutFlag) (s : State) : (raiseFlag f s).sens = s.sens := by cases f <;> rfl
@[simp] theorem raiseFlag_tick (f : TimeoutFlag) (s : State) : (raiseFlag f s).tick = s.tick := by cases f <;> rfl
@[simp] theorem raiseFlag_ackTo_ackTo (s : State) : (raiseFlag .ackTo s).ackTo = true := rfl
@[simp] theorem raiseFlag_ackTo_bitTo (s : State) : (raiseFlag .ackTo s).bitTo = s.bitTo := rfl
@[simp] theorem raiseFlag_bitTo_ackTo (s : State) : (raiseFlag .bitTo s).ackTo = s.ackTo := rfl
@[simp] theorem raiseFlag_bitTo_bitTo (s : State) : (raiseFlag .bitTo s).bitTo = true := rfl

@[simp] theorem applyReset_lastH (s : State) : (applyReset s).lastH = 0#12 := rfl
@[simp] theorem applyReset_lastT (s : State) : (applyReset s).lastT = 0#12 := rfl
@[simp] theorem applyReset_fb (s : State) : (applyReset s).fb = Vector.replicate 40 false := rfl
@[simp] theorem applyReset_q (s : State) : (applyReset s).q = .celsius := rfl
@[simp] theorem applyReset_pin (s : State) : (applyReset s).pin = 0#6 := rfl
@[simp] theorem applyReset_ph (s : State) : (applyReset s).ph = .idle := rfl
@[simp] theorem applyReset_cnt (s : State) : (applyReset s).cnt = 0 := rfl
@[simp] theorem applyReset_bitidx (s : State) : (applyReset s).bitidx = 0#6 := rfl
@[simp] theorem applyReset_oeLow (s : State) : (applyReset s).oeLow = Vector.replicate 64 false := rfl
@[simp] theorem applyReset_result (s : State) : (applyReset s).result = 0#16 := rfl
@[simp] theorem applyReset_busy (s : State) : (applyReset s).busy = false := rfl
@[simp] theorem applyReset_done (s : State) : (applyReset s).done = false := rfl
@[simp] theorem applyReset_fresh (s : State) : (applyReset s).fresh = false := rfl
@[simp] theorem applyReset_ackTo (s : State) : (applyReset s).ackTo = false := rfl
@[simp] theorem applyReset_bitTo (s : State) : (applyReset s).bitTo = false := rfl
@[simp] theorem applyReset_cfg (s : State) : (applyReset s).cfg = s.cfg := rfl
@[simp] theorem applyReset_host (s : State) : (applyReset s).host = s.host := rfl
@[simp] theorem applyReset_sens (s : State) : (applyReset s).sens = s.sens := rfl
@[simp] theorem applyReset_tick (s : State) : (applyReset s).tick = s.tick := rfl

@[simp] theorem nextBit_lastH (s : State) : (nextBit s).lastH = s.lastH := by unfold nextBit; split <;> rfl
@[simp] theorem nextBit_lastT (s : State) : (nextBit s).lastT = s.lastT := by unfold nextBit; split <;> rfl
@[simp] theorem nextBit_fb (s : State) : (nextBit s).fb = s.fb := by unfold nextBit; split <;> rfl
@[simp] theorem nextBit_q (s : State) : (nextBit s).q = s.q := by unfold nextBit; split <;> rfl
@[simp] theorem nextBit_pin (s : State) : (nextBit s).pin = s.pin := by unfold nextBit; split <;> rfl
@[simp] theorem nextBit_oeLow (s : State) : (nextBit s).oeLow = s.oeLow := by unfold nextBit; split <;> rfl
@[simp] theorem nextBit_result (s : State) : (nextBit s).result = s.result := by unfold nextBit; split <;> rfl
@[simp] theorem nextBit_busy (s : State) : (nextBit s).busy = s.busy := by unfold nextBit; split <;> rfl
@[simp] theorem nextBit_done (s : State) : (nextBit s).done = s.done := by unfold nextBit; split <;> rfl
@[simp] theorem nextBit_fresh (s : State) : (nextBit s).fresh = s.fresh := by unfold nextBit; split <;> rfl
@[simp] theorem nextBit_ackTo (s : State) : (nextBit s).ackTo = s.ackTo := by unfold nextBit; split <;> rfl
@[simp] theorem nextBit_bitTo (s : State) : (nextBit s).bitTo = s.bitTo := by unfold nextBit; split <;> rfl
@[simp] theorem nextBit_cfg (s : State) : (nextBit s).cfg = s.cfg := by unfold nextBit; split <;> rfl
@[simp] theorem nextBit_host (s : State) : (nextBit s).host = s.host := by unfold nextBit; split <;> rfl
@[simp] theorem nextBit_sens (s : State) : (nextBit s).sens = s.sens := by unfold nextBit; split <;> rfl
@[simp] theorem nextBit_tick (s : State) : (nextBit s).tick = s.tick := by unfold nextBit; split <;> rfl

@[simp] theorem finishCall_fb (s : State) : (finishCall s).fb = s.fb := rfl
@[simp] theorem finishCall_q (s : State) : (finishCall s).q = s.q := rfl
@[simp] theorem finishCall_pin (s : State) : (finishCall s).pin = s.pin := rfl
@[simp] theorem finishCall_bitidx (s : State) : (finishCall s).bitidx = s.bitidx := rfl
@[simp] theorem finishCall_oeLow (s : State) : (finishCall s).oeLow = s.oeLow := rfl
@[simp] theorem finishCall_ackTo (s : State) : (finishCall s).ackTo = s.ackTo := rfl
@[simp] theorem finishCall_bitTo (s : State) : (finishCall s).bitTo = s.bitTo := rfl
@[simp] theorem finishCall_cfg (s : State) : (finishCall s).cfg = s.cfg := rfl
@[simp] theorem finishCall_host (s : State) : (finishCall s).host = s.host := rfl
@[simp] theorem finishCall_sens (s : State) : (finishCall s).sens = s.sens := rfl
@[simp] theorem finishCall_tick (s : State) : (finishCall s).tick = s.tick := rfl
@[simp] theorem finishCall_busy (s : State) : (finishCall s).busy = false := rfl
@[simp] theorem finishCall_done (s : State) : (finishCall s).done = true := rfl
@[simp] theorem finishCall_ph (s : State) : (finishCall s).ph = .idle := rfl
@[simp] theorem finishCall_cnt (s : State) : (finishCall s).cnt = 0 := rfl
@[simp] theorem finishCall_fresh (s : State) : (finishCall s).fresh = validate (frameBytes s.fb) := rfl
@[simp] theorem finishCall_lastH (s : State) :
    (finishCall s).lastH = (commit (validate (frameBytes s.fb)) (frameBytes s.fb) s.lastH s.lastT).1 := rfl
@[simp] theorem finishCall_lastT (s : State) :
    (finishCall s).lastT = (commit (validate (frameBytes s.fb)) (frameBytes s.fb) s.lastH s.lastT).2 := rfl
@[simp] theorem finishCall_result (s : State) :
    (finishCall s).result = BitVec.ofNat 16 (report s.q (finishCall s).lastH.toNat (finishCall s).lastT.toNat) := rfl

end Sys2Proof.Machine
end

