-- ==== Sys2Proof/Laws/Ops.lean ====
section
/-! SUPPORT. One spec lemma for each shared operation: what it reads, what it can answer. -/

namespace Sys2Proof.Machine

/-! ## Arrays -/

/-- Setting one element of an array over the lines. -/
theorem lineBit_set (v : Lines) (p p' : PinNo) (d : Bool) :
    lineBit (v.set p.toNat d p.isLt) p' = if p' = p then d else lineBit v p' := by
  unfold lineBit
  rw [Vector.getElem_set]
  by_cases h : p' = p
  · simp [h]
  · have : p.toNat ≠ p'.toNat := fun e => h (BitVec.eq_of_toNat_eq e.symm)
    simp [h, this]

@[simp] theorem lineBit_replicate (d : Bool) (p : PinNo) : lineBit (Vector.replicate 64 d) p = d := by
  simp [lineBit]

@[simp] theorem cell_replicate (i : Nat) : cell (Vector.replicate 40 false) i = false := by
  unfold cell; split <;> simp

/-- Storing one cell of the frame buffer. -/
theorem cell_set (fb : FrameBuffer) (i j : Nat) (b : Bool) :
    cell (fb.setIfInBounds i b) j = if j = i ∧ i < 40 then b else cell fb j := by
  unfold cell
  by_cases hj : j < 40
  · simp only [hj, dite_true]
    rw [Vector.getElem_setIfInBounds]
    by_cases hij : i = j
    · subst hij; simp [hj]
    · have hji : j ≠ i := fun e => hij e.symm
      simp [hij, hji]
  · simp only [hj, dite_false]
    split
    · omega
    · rfl

/-- The stored cell reads as stored. -/
theorem cell_set_same (fb : FrameBuffer) {i : Nat} (h : i < 40) (b : Bool) : cell (fb.setIfInBounds i b) i = b := by
  rw [cell_set, if_pos ⟨rfl, h⟩]

/-- Every other cell reads as before. -/
theorem cell_set_other (fb : FrameBuffer) {i j : Nat} (h : j ≠ i) (b : Bool) :
    cell (fb.setIfInBounds i b) j = cell fb j := by
  rw [cell_set, if_neg fun e => h e.1]

/-- Two frame buffers with the same 40 cells are equal. -/
theorem frame_ext {a b : FrameBuffer} (h : ∀ i, i < 40 → cell a i = cell b i) : a = b := by
  apply Vector.ext
  intro i hi
  simpa [cell, hi] using h i hi

theorem cellBit_le (fb : FrameBuffer) (i : Nat) : cellBit fb i ≤ 1 := by
  unfold cellBit; cases cell fb i <;> simp

/-- A frame byte is an 8-bit value (R47). -/
theorem frameByte_lt (fb : FrameBuffer) (k : Nat) : frameByte fb k < 256 := by
  have h := cellBit_le fb
  have := h (8 * k); have := h (8 * k + 1); have := h (8 * k + 2); have := h (8 * k + 3)
  have := h (8 * k + 4); have := h (8 * k + 5); have := h (8 * k + 6); have := h (8 * k + 7)
  unfold frameByte; omega

/-! ## Inputs -/

/-- The inputs depend on their script and the step index only. -/
theorem hostAt_congr {s t : State} (h : t.host = s.host) (n : t.tick = s.tick) (k : Nat) : t.hostAt k = s.hostAt k := by
  unfold State.hostAt; rw [h, n]

theorem sensAt_congr {s t : State} (h : t.sens = s.sens) (n : t.tick = s.tick) (k : Nat) (p : PinNo) :
    t.sensAt k p = s.sensAt k p := by
  unfold State.sensAt State.sensLinesAt; rw [h, n]

/-- After a step the next host inputs are current. -/
@[simp] theorem hostAt_advance (s : State) (k : Nat) : (advance s).hostAt k = s.hostAt (k + 1) := by
  unfold State.hostAt
  simp only [advance_host, advance_tick, List.getElem?_tail]
  have : s.tick + 1 + k = s.tick + (k + 1) := by omega
  rw [this]

/-- After a step the next sensor levels are current. -/
@[simp] theorem sensAt_advance (s : State) (k : Nat) (p : PinNo) : (advance s).sensAt k p = s.sensAt (k + 1) p := by
  unfold State.sensAt State.sensLinesAt
  simp only [advance_sens, advance_tick, List.getElem?_tail]
  have : s.tick + 1 + k = s.tick + (k + 1) := by omega
  rw [this]

/-- `LineRead` as an AND (R38). -/
theorem lineRead_eq (p : PinNo) (s : State) : lineRead p s = (!lineBit s.oeLow p && s.sensAt 0 p) := by
  unfold lineRead
  cases lineBit s.oeLow p <;> cases s.sensAt 0 p <;> rfl

theorem lineRead_congr {s t : State} (o : t.oeLow = s.oeLow) (h : t.sens = s.sens) (n : t.tick = s.tick) (p : PinNo) :
    lineRead p t = lineRead p s := by
  rw [lineRead_eq, lineRead_eq, o, sensAt_congr h n]

/-! ## Operations that may stop -/

theorem requireLine_next {p : PinNo} {s t : State} {k : Result} (h : requireLine p s k = .next t) :
    p.toNat < s.cfg.nPins ∧ k = .next t := by
  unfold requireLine at h
  split at h
  · exact ⟨‹_›, h⟩
  · cases h

theorem requireLine_of_lt {p : PinNo} {s : State} {k : Result} (h : p.toNat < s.cfg.nPins) : requireLine p s k = k := by
  simp [requireLine, h]

theorem requireCell_next {i : BitVec 6} {t : State} {k : Result} (h : requireCell i k = .next t) :
    i.toNat < 40 ∧ k = .next t := by
  unfold requireCell at h
  split at h
  · exact ⟨‹_›, h⟩
  · cases h

theorem requireCell_of_lt {i : BitVec 6} {k : Result} (h : i.toNat < 40) : requireCell i k = k := by
  simp [requireCell, h]

/-- Where the line access faults. -/
theorem requireLine_fault {p : PinNo} {s : State} {k : Result} {r : Fault} (h : requireLine p s k = .fault r) :
    (s.cfg.nPins ≤ p.toNat ∧ r = .noSuchLine p) ∨ k = .fault r := by
  unfold requireLine at h
  split at h
  · exact .inr h
  · cases h; exact .inl ⟨by omega, rfl⟩

/-- Where the cell access faults. -/
theorem requireCell_fault {i : BitVec 6} {k : Result} {r : Fault} (h : requireCell i k = .fault r) :
    (40 ≤ i.toNat ∧ r = .noSuchCell i) ∨ k = .fault r := by
  unfold requireCell at h
  split at h
  · exact .inr h
  · cases h; exact .inl ⟨by omega, rfl⟩

/-! ## The bounded wait (R61) -/

variable {v : Level} {f : TimeoutFlag} {p : Phase} {s : State}

/-- Observed in time. -/
theorem waitLevel_seen (h : lineRead s.pin s = v) : waitLevel v f p s = enterPhase p s := if_pos h

/-- Timeout: the last sample has failed too. -/
theorem waitLevel_timeout (h : lineRead s.pin s ≠ v) (hb : s.cfg.bounded = true) (hc : s.cfg.tTimeout ≤ s.cnt + 1) :
    waitLevel v f p s = enterPhase p (raiseFlag f s) := (if_neg h).trans (if_pos ⟨hb, hc⟩)

/-- One more failed sample. -/
theorem waitLevel_count (h : lineRead s.pin s ≠ v) (hb : s.cfg.bounded = true) (hc : s.cnt + 1 < s.cfg.tTimeout) :
    waitLevel v f p s = countUp s :=
  (if_neg h).trans ((if_neg fun e => absurd e.2 (by omega)).trans (if_pos hb))

/-- The unbounded wait stays (R66). -/
theorem waitLevel_stay (h : lineRead s.pin s ≠ v) (hb : s.cfg.bounded = false) : waitLevel v f p s = s :=
  (if_neg h).trans ((if_neg fun e => by simp [hb] at e).trans (if_neg (by simp [hb])))

/-- All that one step of a wait can do. -/
theorem waitLevel_cases (v : Level) (f : TimeoutFlag) (p : Phase) (s : State) :
    (lineRead s.pin s = v ∧ waitLevel v f p s = enterPhase p s) ∨
    (lineRead s.pin s ≠ v ∧ s.cfg.bounded = true ∧ s.cfg.tTimeout ≤ s.cnt + 1 ∧
      waitLevel v f p s = enterPhase p (raiseFlag f s)) ∨
    (lineRead s.pin s ≠ v ∧ s.cfg.bounded = true ∧ s.cnt + 1 < s.cfg.tTimeout ∧ waitLevel v f p s = countUp s) ∨
    (lineRead s.pin s ≠ v ∧ s.cfg.bounded = false ∧ waitLevel v f p s = s) := by
  by_cases h1 : lineRead s.pin s = v
  · exact .inl ⟨h1, waitLevel_seen h1⟩
  · cases hb : s.cfg.bounded
    · exact .inr (.inr (.inr ⟨h1, rfl, waitLevel_stay h1 hb⟩))
    · by_cases h2 : s.cfg.tTimeout ≤ s.cnt + 1
      · exact .inr (.inl ⟨h1, rfl, h2, waitLevel_timeout h1 hb h2⟩)
      · have h3 : s.cnt + 1 < s.cfg.tTimeout := by omega
        exact .inr (.inr (.inl ⟨h1, rfl, h3, waitLevel_count h1 hb h3⟩))

/-! ## The loop control (R67) -/

/-- After bit 39 the capture ends. -/
theorem nextBit_last (h : s.bitidx = 39#6) : nextBit s = enterPhase .finish s := if_pos h

/-- Before, the next bit begins. -/
theorem nextBit_more (h : s.bitidx ≠ 39#6) : nextBit s = enterPhase .bitw1 { s with bitidx := s.bitidx + 1#6 } :=
  if_neg h

/-! ## Counting, commit, report -/

/-- `cnt` does not wrap below its width (R17). -/
theorem countUp_cnt_of_lt {s : State} (h : s.cnt + 1 < 2 ^ s.cfg.cntW) : (countUp s).cnt = s.cnt + 1 := by
  simp [Nat.mod_eq_of_lt h]

/-- A committed pair is the spec's sums, with nothing lost in 12 bits (R71, R74). -/
theorem commit_ok_toNat (fb : FrameBuffer) (h t : Tenths) :
    (commit true (frameBytes fb) h t).1.toNat = 10 * frameByte fb 0 + frameByte fb 1 ∧
    (commit true (frameBytes fb) h t).2.toNat = 10 * frameByte fb 2 + frameByte fb 3 := by
  have h0 := frameByte_lt fb 0; have h1 := frameByte_lt fb 1
  have h2 := frameByte_lt fb 2; have h3 := frameByte_lt fb 3
  constructor <;> simp only [commit, frameBytes, if_true, BitVec.toNat_ofNat] <;> omega

theorem commit_not (b : FrameBytes) (h t : Tenths) : commit false b h t = (h, t) := rfl

/-- The pair stays in R10's and R11's range. -/
theorem commit_le (ok : Bool) (fb : FrameBuffer) {h t : Tenths} (hh : h.toNat ≤ 2805) (ht : t.toNat ≤ 2805) :
    (commit ok (frameBytes fb) h t).1.toNat ≤ 2805 ∧ (commit ok (frameBytes fb) h t).2.toNat ≤ 2805 := by
  cases ok
  · exact ⟨hh, ht⟩
  · have := commit_ok_toNat fb h t
    have h0 := frameByte_lt fb 0; have h1 := frameByte_lt fb 1
    have h2 := frameByte_lt fb 2; have h3 := frameByte_lt fb 3
    omega

/-- The report of a pair in range is at most 53690 and fits RESULT (R72, R74). -/
theorem report_le (q : Quantity) {h t : Nat} (hh : h ≤ 2805) (ht : t ≤ 2805) : report q h t ≤ 53690 := by
  cases q <;> simp only [report] <;> omega

/-! ## Outcomes -/

theorem advanceOutcome_next {r : Result} {t : State} (h : advanceOutcome r = .next t) :
    ∃ u, r = .next u ∧ t = advance u := by
  cases r with
  | next u => exact ⟨u, rfl, by simpa [advanceOutcome] using h.symm⟩
  | fault r => cases h
  | refused r => cases h

end Sys2Proof.Machine
end

