-- ==== Sys2Proof/Laws/Step.lean ====
section
/-! SUPPORT. What one step and a run of steps can be. -/

namespace Sys2Proof.Machine

/-- All that a step that goes on can be: reset, or the fetched instruction, then the next inputs (R56). -/
theorem step_cases {s t : State} (h : step s = .next t) :
    (s.hostNow.rst = true ∧ t = advance (applyReset s)) ∨
    (s.hostNow.rst = false ∧ ∃ u, runFetched s = .next u ∧ t = advance u) := by
  unfold step at h
  cases hr : s.hostNow.rst
  · rw [hr] at h
    exact .inr ⟨rfl, advanceOutcome_next (by simpa using h)⟩
  · rw [hr] at h
    exact .inl ⟨rfl, by simpa using h.symm⟩

theorem step_of_runFetched {s u : State} (hr : s.hostNow.rst = false) (h : runFetched s = .next u) :
    step s = .next (advance u) := by
  simp [step, hr, h, advanceOutcome]

theorem runs_zero (s t : State) : Runs 0 s t ↔ s = t := by
  show (Host.Outcome.next s : Result) = .next t ↔ s = t
  simp

/-- The host's run, one step unfolded, for any machine. -/
theorem coreRun_succ (M : Host.Core) (k : Nat) (s t : M.State) :
    M.run (k + 1) s = .next t ↔ ∃ u, M.step s = .next u ∧ M.run k u = .next t := by
  rw [Host.Core.run]
  cases M.step s <;> simp

/-- A run of `k + 1` steps is one step and a run of `k`. -/
theorem runs_succ (k : Nat) (s t : State) : Runs (k + 1) s t ↔ ∃ u, step s = .next u ∧ Runs k u t :=
  coreRun_succ Sys2Proof.core k s t

/-- Runs compose. -/
theorem runs_add {j k : Nat} {s t u : State} (h1 : Runs j s t) (h2 : Runs k t u) : Runs (j + k) s u := by
  induction j generalizing s with
  | zero =>
    rw [runs_zero] at h1; subst h1; simpa using h2
  | succ j ih =>
    obtain ⟨w, hs, hw⟩ := (runs_succ j s t).mp h1
    have : j + 1 + k = (j + k) + 1 := by omega
    rw [this, runs_succ]
    exact ⟨w, hs, ih hw⟩

/-- A run has one end. -/
theorem runs_unique {k : Nat} {s t u : State} (h1 : Runs k s t) (h2 : Runs k s u) : t = u := by
  unfold Runs at h1 h2
  rw [h1] at h2
  cases h2
  rfl

end Sys2Proof.Machine
end

