-- ==== Sys2Proof/Laws/Invariant.lean ====
section
/-! SUPPORT. Each shared operation keeps the block's invariant, under the conditions its phase rule gives it. -/

namespace Sys2Proof.Machine

/-- A legal build gives every phase room to count, within `CNT_W` bits (R4, R17). -/
theorem cntBound_legal {c : Config} (h : c.Legal) (p : Phase) : 0 < cntBound c p ∧ cntBound c p ≤ 2 ^ c.cntW := by
  have := h.start_pos; have := h.settle_pos; have := h.timeout_pos; have := h.sample_pos
  have := h.start_fits; have := h.settle_fits; have := h.timeout_fits; have := h.sample_fits
  cases p <;> simp only [cntBound] <;> (try split) <;> omega

namespace State.Inv

variable {s : State}

theorem clearDone (h : s.Inv) : (clearDone s).Inv :=
  ⟨h.legal, h.pin_lt, h.bitidx_le, h.bitidx_zero, h.cnt_lt, h.driver, h.busy_iff, fun e => absurd e (by simp),
    h.fresh_idle, h.unsampled, h.lastH_le, h.lastT_le, h.result_le⟩

theorem raiseFlag (f : TimeoutFlag) (h : s.Inv) : (raiseFlag f s).Inv := by
  cases f <;>
  exact ⟨h.legal, h.pin_lt, h.bitidx_le, h.bitidx_zero, h.cnt_lt, h.driver, h.busy_iff, h.done_idle,
    h.fresh_idle, h.unsampled, h.lastH_le, h.lastT_le, h.result_le⟩

theorem advance (h : s.Inv) : (advance s).Inv :=
  ⟨h.legal, h.pin_lt, h.bitidx_le, h.bitidx_zero, h.cnt_lt, h.driver, h.busy_iff, h.done_idle,
    h.fresh_idle, h.unsampled, h.lastH_le, h.lastT_le, h.result_le⟩

/-- Counting keeps the invariant below the phase's bound, and does not wrap there. -/
theorem countUp (h : s.Inv) (lt : s.cnt + 1 < cntBound s.cfg s.ph) : (countUp s).Inv := by
  have e : (Machine.countUp s).cnt = s.cnt + 1 :=
    countUp_cnt_of_lt (lt_of_lt_of_le lt (cntBound_legal h.legal s.ph).2)
  exact ⟨h.legal, h.pin_lt, h.bitidx_le, h.bitidx_zero, by rw [e]; exact lt, h.driver, h.busy_iff, h.done_idle,
    h.fresh_idle, h.unsampled, h.lastH_le, h.lastT_le, h.result_le⟩

/-- Moving between two phases of a call after START, forward or round the loop. -/
theorem enterPhase {p : Phase} (h : s.Inv) (hd : s.done = false) (hs : capturing s.ph = true) (hn : s.ph ≠ .start)
    (hp : p ≠ .start) (hi : p ≠ .idle) (hb : beforeLoop p = true → beforeLoop s.ph = true) : (enterPhase p s).Inv where
  legal := h.legal
  pin_lt := h.pin_lt
  bitidx_le := h.bitidx_le
  bitidx_zero := fun e => h.bitidx_zero (hb e)
  cnt_lt := (cntBound_legal h.legal p).1
  driver := fun q => by
    have := h.driver q
    simp only [hn, false_and, iff_false] at this
    simp [this, hp]
  busy_iff := by
    have : s.ph ≠ .idle := fun e => by rw [e] at hs; cases hs
    simp [h.busy_iff, this, hi]
  done_idle := fun e => by simp [hd] at e
  fresh_idle := fun e => by
    have := h.fresh_idle e
    rw [this] at hs; cases hs
  unsampled := fun _ => h.unsampled hs
  lastH_le := h.lastH_le
  lastT_le := h.lastT_le
  result_le := h.result_le

/-- Acceptance on an existing line by an idle block (R58). -/
theorem accept (h : s.Inv) (hi : s.ph = .idle) (hd : s.done = false) (q : Quantity) {p : PinNo}
    (hp : p.toNat < s.cfg.nPins) : (accept q p s).Inv where
  legal := h.legal
  pin_lt := hp
  bitidx_le := by simp
  bitidx_zero := fun _ => rfl
  cnt_lt := (cntBound_legal h.legal .start).1
  driver := fun r => by
    have := h.driver r
    simp only [hi] at this
    simp only [accept_oeLow, accept_ph, accept_pin, lineBit_set]
    by_cases e : r = p <;> simp_all
  busy_iff := by simp
  done_idle := fun e => by simp [hd] at e
  fresh_idle := fun e => by simp at e
  unsampled := fun _ i _ => cell_replicate i
  lastH_le := h.lastH_le
  lastT_le := h.lastT_le
  result_le := h.result_le

/-- The release of the line at the end of the start pulse (R59). -/
theorem release (h : s.Inv) (hs : s.ph = .start) (hd : s.done = false) :
    (Machine.enterPhase .settle (lineDrive s.pin false s)).Inv where
  legal := h.legal
  pin_lt := h.pin_lt
  bitidx_le := h.bitidx_le
  bitidx_zero := fun _ => h.bitidx_zero (by rw [hs]; rfl)
  cnt_lt := (cntBound_legal h.legal .settle).1
  driver := fun r => by
    have := h.driver r
    simp only [enterPhase_oeLow, lineDrive_oeLow, enterPhase_ph, lineBit_set]
    by_cases e : r = s.pin <;> simp_all
  busy_iff := by simpa [hs] using h.busy_iff
  done_idle := fun e => by simp [hd] at e
  fresh_idle := fun e => by
    have := h.fresh_idle e
    rw [this] at hs; cases hs
  unsampled := fun _ => h.unsampled (by rw [hs]; rfl)
  lastH_le := h.lastH_le
  lastT_le := h.lastT_le
  result_le := h.result_le

/-- The reset state of a legal build (R92). -/
theorem applyReset (h : s.cfg.Legal) : (applyReset s).Inv where
  legal := h
  pin_lt := by have := h.pins_pos; simp; omega
  bitidx_le := by simp
  bitidx_zero := fun _ => rfl
  cnt_lt := by simp [cntBound]
  driver := fun p => by simp
  busy_iff := by simp
  done_idle := fun e => by simp at e
  fresh_idle := fun e => by simp at e
  unsampled := fun e => by simp [capturing] at e
  lastH_le := by simp
  lastT_le := by simp
  result_le := by simp

end State.Inv
end Sys2Proof.Machine
end

