-- ==== Sys2Proof/Laws/PerInstr.lean ====
section
/-! SUPPORT. One fact per instruction: its encoded word lies in the row of `opcode_table.json` it belongs to. -/

namespace Sys2Proof.Laws.TableRow

/-- The encoded word is of the row's format and carries the row's fixed bits. -/
def Statement (i : Instr) : Prop :=
  ∃ row, opcodeTable[i.rowIndex]? = some row ∧ (encode i).isCommand = row.isCommand ∧
    (encode i).tableBits &&& row.mask = row.pattern

theorem readTC (pin : PinNo) : Statement (.readTC pin) :=
  ⟨_, rfl, rfl, by revert pin; decide⟩

theorem readTF (pin : PinNo) : Statement (.readTF pin) :=
  ⟨_, rfl, rfl, by revert pin; decide⟩

theorem readRH (pin : PinNo) : Statement (.readRH pin) :=
  ⟨_, rfl, rfl, by revert pin; decide⟩

theorem reservedQ3 (pin : PinNo) : Statement (.reservedQ3 pin) :=
  ⟨_, rfl, rfl, by revert pin; decide⟩

theorem phIdle : Statement .phIdle := ⟨_, rfl, rfl, by decide⟩

theorem phStart : Statement .phStart := ⟨_, rfl, rfl, by decide⟩

theorem phSettle : Statement .phSettle := ⟨_, rfl, rfl, by decide⟩

theorem phAck1 : Statement .phAck1 := ⟨_, rfl, rfl, by decide⟩

theorem phAck2 : Statement .phAck2 := ⟨_, rfl, rfl, by decide⟩

theorem phBitw1 : Statement .phBitw1 := ⟨_, rfl, rfl, by decide⟩

theorem phBitw2 : Statement .phBitw2 := ⟨_, rfl, rfl, by decide⟩

theorem phBitdly : Statement .phBitdly := ⟨_, rfl, rfl, by decide⟩

theorem phFinish : Statement .phFinish := ⟨_, rfl, rfl, by decide⟩

end Sys2Proof.Laws.TableRow
end

