-- ==== Sys2Proof/Tests/Slice0.lean ====
section
/-! SUPPORT. Tests of the model. Every expected value is the spec's: the encodings of `30_encoding.md`, the vectors of
`95_test_vectors.md` (named T1, V1, P5 … as there), or a rule's own example. After them, for every statement of the
certificate that has hypotheses, a witness: a concrete state that meets them together, clause by clause. -/

namespace Sys2Proof.Tests

open Sys2Proof.Machine Sys2Proof.Claims

/-! ## Helpers -/

/-- The next state, if there is one. -/
def nextOf (r : Result) : Option State :=
  match r with
  | .next t => some t
  | .fault _ => none
  | .refused _ => none

/-- Something of the next state. -/
def look {α : Type} (f : State → α) (r : Result) : Option α := (nextOf r).map f

/-- No reset, no command. -/
def quiet : HostIn := ⟨false, false, 0#8⟩

/-- `w` presented. -/
def present (w : CmdWord) : HostIn := ⟨false, true, w⟩

/-- `rst` requested. -/
def resetting : HostIn := ⟨true, false, 0#8⟩

/-- Every line of the sensor side at one level. -/
def allLines (v : Level) : Lines := Vector.replicate 64 v

/-- The reset state in phase `p` with count `n`, host input `h` and sensor level `v` at this step. -/
def at' (p : Phase) (n : Nat) (h : HostIn) (v : Level) : State :=
  { State.reset with ph := p, cnt := n, host := [h], sens := [allLines v] }

/-- The frame buffer that holds five bytes, most significant bit first. -/
def frameOf (b0 b1 b2 b3 b4 : BitVec 8) : FrameBuffer :=
  Vector.ofFn fun i => (b0 ++ b1 ++ b2 ++ b3 ++ b4 : BitVec 40).getMsbD i.val

/-- A FINISH step about to decode `fb` for quantity `q`, the pair being `h`, `t`. -/
def finishing (q : Quantity) (fb : FrameBuffer) (h t : Tenths) : State :=
  { at' .finish 0 quiet true with q := q, fb := fb, lastH := h, lastT := t, busy := true }

/-- What FINISH commits and reports. -/
def verdict (s : State) : Nat × Nat × Nat × Bool := (s.lastH.toNat, s.lastT.toNat, s.result.toNat, s.fresh)

/-- The instruction the decoder reads, if any. -/
def decoded (c : Config) (x : CodeWord) : Option Instr := (decode c x).toOption

/-! ## Well-formedness: an ill-formed term for each check -/

theorem test_wf_readTC : (Instr.readTC 1).wellFormed Config.hardware = false := by decide
theorem test_wf_readTF : (Instr.readTF 1).wellFormed Config.hardware = false := by decide
theorem test_wf_readRH : (Instr.readRH 63).wellFormed { Config.hardware with nPins := 63 } = false := by decide
theorem test_wf_legal : (Instr.readRH 62).wellFormed { Config.hardware with nPins := 63 } = true := by decide

/-! ## Decoding: words written from R44, R45, R46, R49 -/

theorem test_decode_readTC : decoded Config.hardware (.cw8 0b000000_00#8) = some (.readTC 0) := by decide
theorem test_decode_readTF : decoded Config.hardware (.cw8 0b000000_01#8) = some (.readTF 0) := by decide
theorem test_decode_readRH : decoded Config.hardware (.cw8 0b000000_10#8) = some (.readRH 0) := by decide
theorem test_decode_reservedQ3 : decoded Config.hardware (.cw8 0b111110_11#8) = some (.reservedQ3 62) := by decide
theorem test_decode_pin :
    decoded { Config.hardware with nPins := 64 } (.cw8 0b100101_10#8) = some (.readRH 37) := by decide
theorem test_decode_pin_reserved :
    decoded Config.hardware (.cw8 0x06#8) = none ∧ decoded Config.hardware (.cw8 0xFE#8) = none := by decide
theorem test_decode_phIdle : decoded Config.hardware (.ph4 0b0000#4) = some .phIdle := by decide
theorem test_decode_phStart : decoded Config.hardware (.ph4 0b0001#4) = some .phStart := by decide
theorem test_decode_phSettle : decoded Config.hardware (.ph4 0b0010#4) = some .phSettle := by decide
theorem test_decode_phAck1 : decoded Config.hardware (.ph4 0b0011#4) = some .phAck1 := by decide
theorem test_decode_phAck2 : decoded Config.hardware (.ph4 0b0100#4) = some .phAck2 := by decide
theorem test_decode_phBitw1 : decoded Config.hardware (.ph4 0b0101#4) = some .phBitw1 := by decide
theorem test_decode_phBitw2 : decoded Config.hardware (.ph4 0b0110#4) = some .phBitw2 := by decide
theorem test_decode_phBitdly : decoded Config.hardware (.ph4 0b0111#4) = some .phBitdly := by decide
theorem test_decode_phFinish : decoded Config.hardware (.ph4 0b1000#4) = some .phFinish := by decide
theorem test_decode_no_phase :
    decoded Config.hardware (.ph4 0b1001#4) = none ∧ decoded Config.hardware (.ph4 0b1111#4) = none := by decide

/-- No word lies in two rows of one format. -/
theorem test_rows_disjoint :
    opcodeTable.Pairwise fun r r' => r.isCommand = r'.isCommand → r.pattern &&& r'.mask ≠ r'.pattern &&& r.mask := by
  decide

/-- The host's numbering of a few table words (log 13). -/
theorem test_table_words :
    decodeTableWord 8 0x02 = some (.readRH 0) ∧ decodeTableWord 8 0xFF = some (.reservedQ3 63) ∧
    decodeTableWord 8 0x04 = some .phAck2 ∧ decodeTableWord 8 0x07 = some .phBitdly ∧
    decodeTableWord 8 0x08 = some .phFinish ∧ decodeTableWord 4 0x0 = some .phIdle ∧ decodeTableWord 8 0x09 = none := by
  decide

/-! ## One step of each instruction -/

/-- R58's example: word 0x02 accepted: Q = 2, START, line 0 low, BUSY. -/
theorem test_accept_RH :
    look (fun t => (t.ph, t.q, t.busy, lineBit t.oeLow 0, t.cnt)) (step (at' .idle 0 (present 0x02) true)) =
      some (.start, .humidity, true, true, 0) := by decide

theorem test_readTC : look (fun t => (t.ph, t.q)) (exec (.readTC 0) State.reset) = some (.start, .celsius) := by decide
theorem test_readTF : look (fun t => (t.ph, t.q)) (exec (.readTF 0) State.reset) = some (.start, .fahrenheit) := by
  decide
theorem test_readRH : look (fun t => (t.ph, t.q)) (exec (.readRH 0) State.reset) = some (.start, .humidity) := by decide
theorem test_reservedQ3 : nextOf (exec (.reservedQ3 0) State.reset) = some State.reset := by decide

/-- P5, steps 0 and 1: 0x03 and 0x06 are ignored. -/
theorem test_reserved_ignored :
    look (fun t => (t.ph, t.busy, t.q)) (step (at' .idle 0 (present 0x03) true)) = some (.idle, false, .celsius) ∧
    look (fun t => (t.ph, t.busy, t.q)) (step (at' .idle 0 (present 0x06) true)) = some (.idle, false, .celsius) := by
  decide

/-- P5, step 100: a command during a call is ignored; `cnt` 97 becomes 98 and `Q` stays. -/
theorem test_busy_ignores :
    look (fun t => (t.ph, t.q, t.cnt)) (step { at' .start 97 (present 0x01) true with q := .humidity }) =
      some (.start, .humidity, 98) := by decide

/-- No command: only `DONE <- 0`. -/
theorem test_idle_done :
    look (fun t => (t.ph, t.done)) (exec .phIdle { at' .idle 0 quiet true with done := true }) = some (.idle, false) := by
  decide

/-- R59, step 18000 of the table of 2.3: the pulse ends and the line is released. -/
theorem test_start_release :
    look (fun t => (t.ph, lineBit t.oeLow 0, t.cnt))
      (exec .phStart { at' .start 17999 quiet true with oeLow := allLines true }) = some (.settle, false, 0) := by decide
theorem test_start_count :
    look (fun t => (t.ph, t.cnt)) (exec .phStart (at' .start 17998 quiet true)) = some (.start, 17999) := by decide

/-- R60, step 18040 of the table of 2.3. -/
theorem test_settle_end :
    look (fun t => (t.ph, t.cnt)) (exec .phSettle (at' .settle 39 quiet true)) = some (.ack1, 0) := by decide
theorem test_settle_count :
    look (fun t => (t.ph, t.cnt)) (exec .phSettle (at' .settle 38 quiet true)) = some (.settle, 39) := by decide

/-- V1: the level at the 100th sample is in time. -/
theorem test_ack1_last_sample :
    look (fun t => (t.ph, t.ackTo)) (exec .phAck1 (at' .ack1 99 quiet false)) = some (.ack2, false) := by decide
/-- V2: the 100th sample fails: timeout. -/
theorem test_ack1_timeout :
    look (fun t => (t.ph, t.ackTo)) (exec .phAck1 (at' .ack1 99 quiet true)) = some (.ack2, true) := by decide

/-- Step 18111 of 2.3, and V9's timeout. -/
theorem test_ack2_seen :
    look (fun t => (t.ph, t.ackTo)) (exec .phAck2 (at' .ack2 69 quiet true)) = some (.bitw1, false) := by decide
theorem test_ack2_timeout :
    look (fun t => (t.ph, t.ackTo, t.bitTo)) (exec .phAck2 (at' .ack2 99 quiet false)) = some (.bitw1, true, false) := by
  decide

/-- V3: high arrives at the 100th sample. V4: one step too late. -/
theorem test_bitw1_last_sample :
    look (fun t => (t.ph, t.bitTo)) (exec .phBitw1 (at' .bitw1 99 quiet true)) = some (.bitw2, false) := by decide
theorem test_bitw1_timeout :
    look (fun t => (t.ph, t.bitTo, t.ackTo)) (exec .phBitw1 (at' .bitw1 99 quiet false)) = some (.bitw2, true, false) := by
  decide

/-- Step 18191 of 2.3, and V8's timeout. -/
theorem test_bitw2_seen :
    look (fun t => (t.ph, t.bitTo)) (exec .phBitw2 (at' .bitw2 78 quiet false)) = some (.bitdly, false) := by decide
theorem test_bitw2_timeout :
    look (fun t => (t.ph, t.bitTo)) (exec .phBitw2 (at' .bitw2 99 quiet true)) = some (.bitdly, true) := by decide

/-- Step 18319 of 2.3: bit 2 samples 1. -/
theorem test_bitdly_sample :
    look (fun t => (t.ph, t.bitidx, cell t.fb 1, cell t.fb 2, cell t.fb 3))
      (exec .phBitdly { at' .bitdly 27 quiet true with bitidx := 2 }) = some (.bitw1, 3, false, true, false) := by decide
/-- Step 20169 of 2.3: after bit 39 comes FINISH. -/
theorem test_bitdly_last :
    look (fun t => (t.ph, cell t.fb 39)) (exec .phBitdly { at' .bitdly 27 quiet false with bitidx := 39 }) =
      some (.finish, false) := by decide

/-- S6, T1: the frame written out as in the spec, `FB[0]` first. -/
def frameS6 : FrameBuffer :=
  ⟨#[false, false, true, true, false, false, true, false] ++ #[false, false, false, false, false, false, false, false] ++
    #[false, false, false, true, true, false, false, false] ++ #[false, false, false, false, false, false, false, false] ++
    #[false, true, false, false, true, false, true, false], rfl⟩

theorem test_finish_T1_TF :
    look verdict (exec .phFinish (finishing .fahrenheit frameS6 0 0)) = some (500, 240, 7520, true) := by decide
theorem test_finish_T8b_RH :
    look verdict (exec .phFinish (finishing .humidity (frameOf 0x28 0x05 0x1A 0x03 0x4B) 500 240)) =
      some (500, 240, 5000, false) := by decide
/-- T7: the sum wraps; T8c: a fraction byte above 9 is used whole. -/
theorem test_finish_wrap :
    look verdict (exec .phFinish (finishing .celsius (frameOf 0x90 0x05 0x80 0x09 0x1E) 0 0)) =
      some (1445, 1289, 12890, true) := by decide
theorem test_finish_fraction :
    look verdict (exec .phFinish (finishing .fahrenheit (frameOf 0x00 0x0C 0x00 0x0C 0x18) 0 0)) =
      some (12, 12, 3416, true) := by decide
/-- Report of negative values (2.2): -40.0 and -17.8 degrees Celsius. -/
theorem test_fahrenheit_negative : fahrenheitX100 (-400) = -4000 ∧ fahrenheitX100 (-178) = -4 := by decide

/-- X3, X4: reset clears the pair and wins over a command. -/
theorem test_reset_wins :
    look (fun t => (t.ph, t.lastH, t.lastT, t.busy))
      (step { at' .idle 0 ⟨true, true, 0x02⟩ true with lastH := 500, lastT := 240 }) = some (.idle, 0, 0, false) := by
  decide

/-- A placed word is the one the next step runs (log 13, log 14). -/
theorem test_placed_command :
    look (fun t => (t.ph, t.q)) (step (State.reset.withFetchWord 8 0x01)) = some (.start, .fahrenheit) := by decide
theorem test_placed_phase :
    look (fun t => (t.ph, t.cnt)) (step (State.reset.withFetchWord 4 0x2)) = some (.settle, 1) ∧
    look (fun t => (t.ph, t.done)) (step (State.reset.withFetchWord 8 0x8)) = some (.idle, true) := by decide

/-! ## Witnesses: states that meet the hypotheses of the statements -/

/-- The smallest legal build: every count is 1, so a whole call is 126 steps whatever the line does. -/
def tiny : Config :=
  { Config.hardware with tStart := 1, tSettle := 1, tTimeout := 1, tSample := 1 }

theorem tiny_legal : tiny.Legal := by constructor <;> decide

theorem hardware_legal : Config.hardware.Legal := by constructor <;> decide

theorem wide_legal : ({ Config.hardware with nPins := 64 } : Config).Legal := by constructor <;> decide

/-- How many steps the scripts of `calling` last. -/
def horizon : Nat := 200

/-- The idle block of build `c` with `w` presented, then no host action for `horizon` steps, and the sensor side at `v`. -/
def calling (c : Config) (w : CmdWord) (v : Level) : State :=
  { State.reset with
    cfg := c, host := present w :: List.replicate horizon quiet, sens := List.replicate horizon (allLines v) }

theorem quiet_run {s : State} {k : Nat} (h : s.host.length ≥ k) (hr : ∀ x ∈ s.host, x.rst = false) : NoReset s k := by
  intro i hi
  have hl : i < s.host.length := by omega
  simp only [State.hostAt, List.getElem?_eq_getElem hl]
  exact hr _ (List.getElem_mem hl)

theorem calling_quiet (c : Config) (w : CmdWord) (v : Level) {k : Nat} (h : k ≤ 201) : NoReset (calling c w v) k :=
  quiet_run (by simp only [calling, List.length_cons, List.length_replicate]; exact h)
    (by simp [calling, present, quiet])

theorem calling_level (c : Config) (w : CmdWord) (v : Level) (p : PinNo) {k : Nat} (h : k < horizon) :
    levelFrom (calling c w v) p k = v := by
  simp [levelFrom, State.sensAt, State.sensLinesAt, calling, h, allLines]

theorem calling_accepts (c : Config) (q : Quantity) (p : PinNo) (v : Level) (h : p.toNat < c.nPins) :
    Accepts (calling c (commandWord p q.code) v) q p := ⟨rfl, rfl, rfl, h⟩

theorem calling_inv {c : Config} (h : c.Legal) (w : CmdWord) (v : Level) : (calling c w v).Inv :=
  State.Inv.applyReset (s := calling c w v) h

theorem tiny_wait (L : Nat → Level) (v : Level) (e : Nat) : waitEnd tiny L v e = e := by
  cases h : decide (L e = v) <;> simp_all [waitEnd, firstAt, tiny, Config.hardware]

theorem tiny_bitStart (L : Nat → Level) (i : Nat) : bitStart tiny L 0 i = 5 + 3 * i := by
  induction i with
  | zero => simp only [bitStart, ack2End, ack1End, ack1Start, tiny_wait]; rfl
  | succ i ih =>
    simp only [bitStart, tiny_wait, ih, show tiny.tSample = 1 from rfl]
    omega

/-- Every call of the tiny build executes FINISH 125 steps after acceptance. -/
theorem tiny_finishAt (L : Nat → Level) : finishAt tiny L 0 = 125 := by
  simp only [finishAt, bitSample, bitFall, bitHigh, tiny_wait, tiny_bitStart]; rfl

/-- A call in progress: the state after acceptance. -/
def started (c : Config) : State := accept .humidity 0#6 (calling c 0x02 true)

theorem started_inv {c : Config} (h : c.Legal) : (started c).Inv :=
  State.Inv.accept (calling_inv h 0x02 true) rfl rfl .humidity h.pins_pos

/-- The same call in BITW1 of its first bit, the line at `v`, and `n` failed samples so far. -/
def waitingBit (n : Nat) (v : Level) : State :=
  { started Config.hardware with
    ph := .bitw1, cnt := n, oeLow := Vector.replicate 64 false, host := [quiet], sens := [allLines v] }

theorem waitingBit_inv {n : Nat} (v : Level) (h : n < 100) : (waitingBit n v).Inv := by
  have i := started_inv hardware_legal
  exact ⟨i.legal, i.pin_lt, i.bitidx_le, fun _ => rfl, h, fun p => (by simp [waitingBit]),
    (by simp [waitingBit, started]), fun e => (by cases e), fun e => (by cases e),
    fun _ => i.unsampled rfl, i.lastH_le, i.lastT_le, i.result_le⟩

/-! ### Encoding -/

theorem witness_DecodeEncode :
    (Instr.readTC 0).WellFormed Config.hardware ∧ (Instr.readTF 63).WellFormed { Config.hardware with nPins := 64 } ∧
    (Instr.readRH 62).WellFormed { Config.hardware with nPins := 63 } ∧ (Instr.reservedQ3 63).WellFormed tiny ∧
    Instr.phFinish.WellFormed tiny := by decide

theorem witness_EncodeDecode :
    decode Config.hardware (.cw8 0x02#8) = .ok (.readRH 0) ∧ decode Config.hardware (.ph4 8#4) = .ok .phFinish :=
  ⟨rfl, rfl⟩

/-- The clauses of CommandWordDecoding at 0xFF (reserved code), 0x04 (first reserved pin), 0x00, 0x01, 0x02. -/
theorem witness_CommandWordDecoding :
    (0xFF#8).toNat % 4 = 3 ∧
    ((0x04#8).toNat % 4 ≠ 3 ∧ Config.hardware.nPins ≤ (0x04#8).toNat / 4) ∧
    ((0x00#8).toNat / 4 < Config.hardware.nPins ∧ (0x00#8).toNat % 4 = 0) ∧
    ((0x01#8).toNat / 4 < Config.hardware.nPins ∧ (0x01#8).toNat % 4 = 1) ∧
    ((0x02#8).toNat / 4 < Config.hardware.nPins ∧ (0x02#8).toNat % 4 = 2) := by decide

/-! ### The step -/

/-- A command word and a phase code, each fetched and decoded. -/
theorem witness_StepRunsFetched :
    (((calling Config.hardware 0x02 true).hostAt 0).rst = false ∧
      decode Config.hardware (.cw8 ((calling Config.hardware 0x02 true).hostAt 0).cmdWord) = .ok (.readRH 0)) ∧
    (((at' .bitdly 27 quiet true).hostAt 0).rst = false ∧
      decode Config.hardware (.ph4 (at' .bitdly 27 quiet true).ph.code) = .ok .phBitdly) :=
  ⟨⟨rfl, rfl⟩, ⟨rfl, rfl⟩⟩

theorem witness_StepExecutesPhaseRule :
    ((at' .idle 0 (present 0x06) true).hostAt 0).rst = false ∧ ((at' .finish 0 (present 0x02) true).hostAt 0).rst = false :=
  ⟨rfl, rfl⟩

/-- Both clauses: `q = 3` on line 0, and `q = 2` on the first pin that is no line. -/
theorem witness_ReservedWordsIgnored :
    ((at' .idle 0 (present 0x03) true).ph = .idle ∧ ((at' .idle 0 (present 0x03) true).hostAt 0).rst = false ∧
      ((at' .idle 0 (present 0x03) true).hostAt 0).cmdValid = true ∧
      ((at' .idle 0 (present 0x03) true).hostAt 0).cmdWord.toNat % 4 = 3) ∧
    ((at' .idle 0 (present 0x06) true).ph = .idle ∧ ((at' .idle 0 (present 0x06) true).hostAt 0).rst = false ∧
      ((at' .idle 0 (present 0x06) true).hostAt 0).cmdValid = true ∧
      (at' .idle 0 (present 0x06) true).cfg.nPins ≤ ((at' .idle 0 (present 0x06) true).hostAt 0).cmdWord.toNat / 4) := by
  decide

/-- X2: reset during START. -/
theorem witness_ResetWins : ((at' .start 4997 resetting true).hostAt 0).rst = true := rfl

theorem witness_ResetHeld :
    ∀ i, i ≤ 1 → (({ State.reset with host := [resetting, resetting] } : State).hostAt i).rst = true := by decide

/-! ### The commands -/

theorem witness_ReadCommandsAccepted :
    (State.reset.ph = .idle ∧ (0#6).toNat < State.reset.cfg.nPins) ∧
    ((calling { Config.hardware with nPins := 64 } 0xFC true).ph = .idle ∧
      (63#6).toNat < (calling { Config.hardware with nPins := 64 } 0xFC true).cfg.nPins) := by decide

theorem witness_ReservedCommandsComplete : State.reset.ph = .idle ∧ State.reset.cfg.nPins ≤ (1#6).toNat := by decide

theorem witness_CommandWhileBusyLost : (started tiny).ph ≠ .idle ∧ (at' .finish 0 quiet true).ph ≠ .idle := by decide

theorem witness_BusyIgnoresCommands :
    (at' .start 97 quiet true).ph ≠ .idle ∧ (present 0x01).rst = quiet.rst ∧ present 0x01 ≠ quiet := by decide

/-! ### The phases -/

/-- Accepted: 0x02. Not accepted: `q = 3`, the first reserved pin, and no command. -/
theorem witness_IdleRule :
    ((present 0x02).cmdValid = true ∧ (0x02#8).toNat % 4 ≠ 3 ∧ (0x02#8).toNat / 4 < State.reset.cfg.nPins) ∧
    ¬ ((0x03#8).toNat % 4 ≠ 3) ∧ ¬ ((0x04#8).toNat / 4 < State.reset.cfg.nPins) ∧ ¬ (quiet.cmdValid = true) ∧
    (at' .idle 0 (present 0x02) true).hostAt 0 = present 0x02 := by decide

theorem witness_StartRule :
    ((at' .start 17999 quiet true).cnt + 1 = Config.hardware.tStart ∧
      (at' .start 17999 quiet true).pin.toNat < Config.hardware.nPins) ∧
    ((at' .start 17998 quiet true).cnt + 1 ≠ Config.hardware.tStart ∧
      (at' .start 17998 quiet true).cnt + 1 < 2 ^ Config.hardware.cntW) := by decide

theorem witness_SettleRule :
    ((at' .settle 39 quiet true).cnt + 1 = Config.hardware.tSettle) ∧
    ((at' .settle 38 quiet true).cnt + 1 ≠ Config.hardware.tSettle ∧
      (at' .settle 38 quiet true).cnt + 1 < 2 ^ Config.hardware.cntW) := by decide

/-- The four arms of a wait at their boundaries, for the low-level waits (ACK1, BITW2) and the high-level ones (ACK2,
BITW1): seen at the last sample, the last sample failed, the last but one failed, and the unbounded build. -/
theorem witness_WaitRules :
    (lineRead 0 (at' .ack1 99 quiet false) = Config.hardware.ack1Level ∧
      lineRead 0 (at' .bitw2 99 quiet false) = Config.hardware.bitw2Level ∧
      lineRead 0 (at' .ack2 99 quiet true) = Config.hardware.ack2Level ∧
      lineRead 0 (at' .bitw1 99 quiet true) = Config.hardware.bitw1Level) ∧
    (lineRead 0 (at' .ack1 99 quiet true) ≠ Config.hardware.ack1Level ∧
      lineRead 0 (at' .bitw2 99 quiet true) ≠ Config.hardware.bitw2Level ∧
      lineRead 0 (at' .ack2 99 quiet false) ≠ Config.hardware.ack2Level ∧
      lineRead 0 (at' .bitw1 99 quiet false) ≠ Config.hardware.bitw1Level) ∧
    (at' .ack1 99 quiet true).pin.toNat < Config.hardware.nPins ∧ Config.hardware.bounded = true ∧
    Config.hardware.tTimeout ≤ 99 + 1 ∧ 98 + 1 < Config.hardware.tTimeout ∧ 98 + 1 < 2 ^ Config.hardware.cntW ∧
    (lineRead 0 { at' .ack1 99 quiet true with cfg := { Config.hardware with bounded := false } } ≠ Config.hardware.ack1Level ∧
      ({ at' .ack1 99 quiet true with cfg := { Config.hardware with bounded := false } } : State).cfg.bounded = false) := by
  decide

/-- A sample of bit 39, of bit 38, of bit 0, and the step before a sample. -/
theorem witness_BitdlyRule :
    ((at' .bitdly 27 quiet true).cnt + 1 = Config.hardware.tSample ∧
      (at' .bitdly 27 quiet true).pin.toNat < Config.hardware.nPins ∧ (at' .bitdly 27 quiet true).bitidx.toNat = 0) ∧
    ({ at' .bitdly 27 quiet true with bitidx := 39 } : State).bitidx.toNat = 39 ∧
    ({ at' .bitdly 27 quiet true with bitidx := 38 } : State).bitidx.toNat < 39 ∧
    ((at' .bitdly 26 quiet true).cnt + 1 ≠ Config.hardware.tSample ∧
      (at' .bitdly 26 quiet true).cnt + 1 < 2 ^ Config.hardware.cntW) := by decide

theorem okS6 : ChecksumOk frameS6 := by unfold ChecksumOk; decide

/-- T2: the same bytes with a bad checksum. -/
theorem badS7 : ¬ ChecksumOk (frameOf 0x32 0x00 0x18 0x00 0x00) := by unfold ChecksumOk; decide

/-- A valid and an invalid frame, with the pair at the top of its range. -/
theorem witness_FinishRule :
    (ChecksumOk (finishing .humidity frameS6 2805 2805).fb ∧
      ¬ ChecksumOk (finishing .humidity (frameOf 0x32 0x00 0x18 0x00 0x00) 2805 2805).fb) ∧
    (finishing .humidity frameS6 2805 2805).lastH.toNat ≤ 2805 ∧ (finishing .humidity frameS6 2805 2805).lastT.toNat ≤ 2805 :=
  ⟨⟨okS6, badS7⟩, by decide, by decide⟩

/-- Pin 1 with one line, in a wait, at the last step of START and at a sample; cell 40 at a sample; and the two faults. -/
theorem witness_AbsentLineOrCellStops :
    (∀ p n, ({ at' p n quiet true with pin := 1 } : State).cfg.nPins ≤ ({ at' p n quiet true with pin := 1 } : State).pin.toNat) ∧
    17999 + 1 = Config.hardware.tStart ∧ 27 + 1 = Config.hardware.tSample ∧
    (({ at' .bitdly 27 quiet true with bitidx := 40 } : State).pin.toNat < Config.hardware.nPins ∧
      40 ≤ ({ at' .bitdly 27 quiet true with bitidx := 40 } : State).bitidx.toNat) ∧
    exec .phAck1 { at' .ack1 0 quiet true with pin := 1 } = .fault (.noSuchLine 1) ∧
    exec .phBitdly { at' .bitdly 27 quiet true with bitidx := 40 } = .fault (.noSuchCell 40) :=
  ⟨fun _ _ => by show 1 ≤ 1; omega, rfl, rfl, by decide, rfl, rfl⟩

/-! ### Whole-machine rules -/

/-- A step that changes each element: acceptance (FB, Q, BUSY, OE_LOW, the flags, `ph`), the end of START (OE_LOW), a count,
the sample of a bit (FB, `bitidx`), two timeouts (ACK_TO, BIT_TO), FINISH (the pair, RESULT, BUSY, FRESH), and a reset. -/
theorem witness_WriteOwnership :
    look (fun t => decide (t.q ≠ .celsius ∧ t.busy ≠ false ∧ lineBit t.oeLow 0 ≠ false ∧ t.fb ≠ frameS6 ∧ t.fresh ≠ true ∧
        t.ackTo ≠ true ∧ t.bitTo ≠ true ∧ t.bitidx ≠ 39 ∧ t.ph ≠ .idle))
      (step { at' .idle 0 (present 0x02) true with fb := frameS6, fresh := true, ackTo := true, bitTo := true, bitidx := 39 }) =
      some true ∧
    look (fun t => decide (lineBit t.oeLow 0 ≠ true)) (step { at' .start 17999 quiet true with oeLow := allLines true }) =
      some true ∧
    look (fun t => decide (t.ph = .start ∧ t.cnt ≠ 97)) (step (at' .start 97 quiet true)) = some true ∧
    look (fun t => decide (cell t.fb 0 ≠ false ∧ t.bitidx ≠ 0)) (step (at' .bitdly 27 quiet true)) = some true ∧
    look (fun t => decide (t.ackTo ≠ false)) (step (at' .ack1 99 quiet true)) = some true ∧
    look (fun t => decide (t.bitTo ≠ false)) (step (at' .bitw1 99 quiet false)) = some true ∧
    look (fun t => decide (t.lastH ≠ 0 ∧ t.lastT ≠ 0 ∧ t.result ≠ 0 ∧ t.busy ≠ true ∧ t.fresh ≠ false))
      (step (finishing .humidity frameS6 0 0)) = some true ∧
    ((at' .start 4997 resetting true).hostAt 0).rst = true ∧ ∃ t, step (at' .start 4997 resetting true) = .next t :=
  ⟨by decide, by decide, by decide, by decide, by decide, by decide, by decide, rfl, ⟨_, rfl⟩⟩

/-- A step that stays, the loop's backward step at `bitidx = 38`, and its end at 39. -/
theorem witness_PhasesInOrder :
    look State.ph (step (at' .bitdly 26 quiet true)) = some .bitdly ∧
    look State.ph (step { at' .bitdly 27 quiet true with bitidx := 38 }) = some .bitw1 ∧
    look State.ph (step { at' .bitdly 27 quiet true with bitidx := 39 }) = some .finish ∧
    ((at' .bitdly 27 quiet true).hostAt 0).rst = false := by decide

/-- DONE after FINISH, not after another step, not after a FINISH step that reset overrides. -/
theorem witness_DoneExactlyAfterFinish :
    look State.done (step (finishing .humidity frameS6 0 0)) = some true ∧
    look State.done (step (at' .idle 0 quiet true)) = some false ∧
    look State.done (step (at' .finish 0 resetting true)) = some false := by decide

theorem witness_BusyTracksPhase :
    ((started tiny).busy = true ↔ (started tiny).ph ≠ .idle) ∧ ∃ t, step (started tiny) = .next t := ⟨by decide, ⟨_, rfl⟩⟩

theorem witness_LastPairMovesTogether :
    ((finishing .humidity frameS6 0 0).hostAt 0).rst = false ∧ ∃ t, step (finishing .humidity frameS6 0 0) = .next t :=
  ⟨rfl, ⟨_, rfl⟩⟩

/-- An idle state that accepts, a state of a call, and one in the middle of a bit. -/
theorem witness_StepKeepsInvariant :
    ((calling tiny 0x02 true).Inv ∧ ∃ t, step (calling tiny 0x02 true) = .next t) ∧
    ((started tiny).Inv ∧ ∃ t, step (started tiny) = .next t) ∧
    ((waitingBit 99 true).Inv ∧ ∃ t, step (waitingBit 99 true) = .next t) :=
  ⟨⟨calling_inv tiny_legal _ _, ⟨_, rfl⟩⟩, ⟨started_inv tiny_legal, ⟨_, rfl⟩⟩, ⟨waitingBit_inv _ (by omega), ⟨_, rfl⟩⟩⟩

theorem witness_NothingIsRaised : (started Config.hardware).Inv ∧ (waitingBit 0 false).Inv :=
  ⟨started_inv hardware_legal, waitingBit_inv _ (by omega)⟩

theorem witness_StepTakesNextInputs : ∃ t, step (calling tiny 0x02 true) = .next t := ⟨_, rfl⟩

/-! ### The line -/

theorem witness_LineLevel :
    lineBit (started tiny).oeLow 0 = true ∧ (at' .ack1 0 quiet false).sensAt 0 0 = false ∧
    (lineBit (at' .ack1 0 quiet true).oeLow 0 = false ∧ (at' .ack1 0 quiet true).sensAt 0 0 = true) := by decide

/-- A step of each kind, with two different sensor sides; the last clause with two that differ on another line only. -/
theorem witness_SensorSeenOnlyWhenSampled :
    allLines true ≠ allLines false ∧ (at' .idle 0 quiet true).ph = .idle ∧ (at' .start 0 quiet true).ph = .start ∧
    (at' .settle 0 quiet true).ph = .settle ∧ (at' .finish 0 quiet true).ph = .finish ∧
    ((at' .bitdly 26 quiet true).ph = .bitdly ∧ (at' .bitdly 26 quiet true).cnt + 1 ≠ Config.hardware.tSample) ∧
    (lineBit (allLines true) (at' .ack1 0 quiet true).pin = lineBit ((allLines true).set 1 false) (at' .ack1 0 quiet true).pin ∧
      allLines true ≠ (allLines true).set 1 false) := by decide

theorem witness_StartPulseAndSettle :
    tiny.Legal ∧ Accepts (calling tiny (commandWord 0 Quantity.humidity.code) true) .humidity 0 ∧
    NoReset (calling tiny (commandWord 0 Quantity.humidity.code) true) (tiny.tStart + tiny.tSettle + 1) :=
  ⟨tiny_legal, calling_accepts _ _ _ _ (by decide), calling_quiet _ _ _ (by decide)⟩

/-! ### Frames -/

/-- Cell `8k+j` at the ends of its range. -/
theorem witness_FrameBitOrder : (0 < 5 ∧ 0 < 8) ∧ (4 < 5 ∧ 7 < 8) := by decide

theorem witness_ChecksumVerdict :
    (∀ i, i < 40 → cell (frameOf 0 0 0 0 0) i = false) ∧ (∀ i, i < 40 → cell (frameOf 0xFF 0xFF 0xFF 0xFF 0xFF) i = true) := by
  decide

theorem witness_UpdateLaw :
    ChecksumOk (finishing .celsius frameS6 0 0).fb ∧ ¬ ChecksumOk (finishing .celsius (frameOf 0x32 0 0x18 0 0) 0 0).fb :=
  ⟨okS6, badS7⟩

/-- The second call may ask for another quantity, or for the same. -/
theorem witness_FinishIdempotent :
    ∃ t, exec .phFinish (finishing .humidity frameS6 0 0) = .next t ∧ ChecksumOk (finishing .humidity frameS6 0 0).fb ∧
      (finishing .fahrenheit frameS6 500 240).fb = (finishing .humidity frameS6 0 0).fb ∧
      (finishing .fahrenheit frameS6 500 240).lastH = t.lastH ∧ (finishing .fahrenheit frameS6 500 240).lastT = t.lastT ∧
      (finishing .humidity frameS6 500 240).q = (finishing .humidity frameS6 0 0).q :=
  ⟨_, rfl, okS6, rfl, by decide, by decide, rfl⟩

/-- T3, and the all-zero frame. -/
theorem witness_FirstCall :
    ((finishing .fahrenheit (frameOf 0x32 0x00 0x18 0x00 0x00) 0 0).lastH = 0#12 ∧
      (finishing .fahrenheit (frameOf 0x32 0x00 0x18 0x00 0x00) 0 0).lastT = 0#12 ∧
      ¬ ChecksumOk (finishing .fahrenheit (frameOf 0x32 0x00 0x18 0x00 0x00) 0 0).fb) ∧
    (∀ i, i < 40 → cell (finishing .fahrenheit (frameOf 0 0 0 0 0) 0 0).fb i = false) :=
  ⟨⟨rfl, rfl, badS7⟩, by decide⟩

/-! ### The call -/

/-- A call of the tiny build, with no reset to its end and one step beyond: the hypotheses of the capture, of the call as a
function, of the results and of the held outputs. -/
theorem witness_calls (q : Quantity) (v : Level) :
    let s := calling tiny (commandWord 0 q.code) v
    s.Inv ∧ s.cfg.Legal ∧ s.cfg.bounded = true ∧ Accepts s q 0 ∧
    NoReset s (finishAt s.cfg (levelFrom s 0) 0 + 1) ∧ NoReset s (finishAt s.cfg (levelFrom s 0) 0) ∧
    1 ≤ finishAt s.cfg (levelFrom s 0) 0 := by
  intro s
  have e : finishAt s.cfg (levelFrom s 0) 0 = 125 := tiny_finishAt _
  refine ⟨calling_inv tiny_legal _ _, tiny_legal, rfl, calling_accepts _ _ _ _ (by decide), ?_, ?_, ?_⟩
  · rw [e]; exact calling_quiet _ _ _ (by decide)
  · rw [e]; exact calling_quiet _ _ _ (by decide)
  · rw [e]; decide

theorem witness_CaptureClosedForm :
    let s := calling tiny (commandWord 0 Quantity.humidity.code) true
    s.cfg.Legal ∧ s.cfg.bounded = true ∧ Accepts s .humidity 0 ∧ NoReset s (finishAt s.cfg (levelFrom s 0) 0) :=
  have h := witness_calls .humidity true
  ⟨h.2.1, h.2.2.1, h.2.2.2.1, h.2.2.2.2.2.1⟩

theorem witness_CallIsFunction :
    let s := calling tiny (commandWord 0 Quantity.fahrenheit.code) false
    s.cfg.Legal ∧ s.cfg.bounded = true ∧ Accepts s .fahrenheit 0 ∧ NoReset s (finishAt s.cfg (levelFrom s 0) 0 + 1) :=
  have h := witness_calls .fahrenheit false
  ⟨h.2.1, h.2.2.1, h.2.2.2.1, h.2.2.2.2.1⟩

/-- A line that stays low gives a valid frame, one that stays high an invalid one: the two cases of ReadResults. -/
theorem witness_ReadResults :
    (let s := calling tiny (commandWord 0 Quantity.celsius.code) false
     s.Inv ∧ s.cfg.bounded = true ∧ Accepts s .celsius 0 ∧ NoReset s (finishAt s.cfg (levelFrom s 0) 0 + 1)) ∧
    ChecksumOk (Vector.ofFn fun _ => false) ∧ ¬ ChecksumOk (Vector.ofFn fun _ => true) :=
  have h := witness_calls .celsius false
  ⟨⟨h.1, h.2.2.1, h.2.2.2.1, h.2.2.2.2.1⟩, by unfold ChecksumOk; decide, by unfold ChecksumOk; decide⟩

theorem witness_OutputsHeldDuringCall :
    let s := calling tiny (commandWord 0 Quantity.celsius.code) true
    s.cfg.Legal ∧ s.cfg.bounded = true ∧ Accepts s .celsius 0 ∧ NoReset s (finishAt s.cfg (levelFrom s 0) 0) ∧
    1 ≤ finishAt s.cfg (levelFrom s 0) 0 :=
  have h := witness_calls .celsius true
  ⟨h.2.1, h.2.2.1, h.2.2.2.1, h.2.2.2.2.2.1, h.2.2.2.2.2.2⟩

theorem witness_CallDuration : Config.hardware.Legal ∧ tiny.Legal := ⟨hardware_legal, tiny_legal⟩

theorem witness_EveryCallEnds :
    (started tiny).Inv ∧ (started tiny).cfg.bounded = true ∧ (started tiny).ph ≠ .idle ∧
    NoReset (started tiny) (longestCall (started tiny).cfg) :=
  ⟨started_inv tiny_legal, rfl, by decide,
    calling_quiet tiny 0x02 true (k := 126) (by decide)⟩

/-- The hypotheses of NoSensorIsStale (`v` high) and of DeadLineCommitsZeros (`v` low); `n` is 125 here. -/
theorem constant_line (v : Level) :
    let s := calling tiny (commandWord 0 Quantity.celsius.code) v
    let n := s.cfg.tStart + s.cfg.tSettle + s.cfg.tTimeout + 1 + 40 * (1 + s.cfg.tTimeout + s.cfg.tSample) + 1
    s.cfg.Legal ∧ s.cfg.bounded = true ∧ DefaultLevels s.cfg ∧ Accepts s .celsius 0 ∧ NoReset s (n + 1) ∧
    ∀ k, k ≤ n → levelFrom s 0 k = v := by
  intro s n
  have hn : n = 125 := rfl
  refine ⟨tiny_legal, rfl, ⟨rfl, rfl, rfl, rfl⟩, calling_accepts _ _ _ _ (by decide), ?_, fun k hk => ?_⟩
  · rw [hn]; exact calling_quiet _ _ _ (by decide)
  · exact calling_level _ _ _ _ (by unfold horizon; omega)

theorem witness_NoSensorIsStale :
    let s := calling tiny (commandWord 0 Quantity.celsius.code) true
    let n := s.cfg.tStart + s.cfg.tSettle + s.cfg.tTimeout + 1 + 40 * (1 + s.cfg.tTimeout + s.cfg.tSample) + 1
    (s.cfg.Legal ∧ s.cfg.bounded = true ∧ DefaultLevels s.cfg ∧ Accepts s .celsius 0 ∧ NoReset s (n + 1) ∧
      ∀ k, k ≤ n → levelFrom s 0 k = true) ∧
    s.lastH.toNat ≤ 2805 ∧ s.lastT.toNat ≤ 2805 := ⟨constant_line true, by decide, by decide⟩

theorem witness_DeadLineCommitsZeros :
    let s := calling tiny (commandWord 0 Quantity.celsius.code) false
    let n := s.cfg.tStart + s.cfg.tSettle + s.cfg.tTimeout + 1 + 40 * (1 + s.cfg.tTimeout + s.cfg.tSample) + 1
    s.cfg.Legal ∧ s.cfg.bounded = true ∧ DefaultLevels s.cfg ∧ Accepts s .celsius 0 ∧ NoReset s (n + 1) ∧
    ∀ k, k ≤ n → levelFrom s 0 k = false := constant_line false

/-! ### The unbounded build -/

/-- ACK1 of an unbounded build with a line that stays high. -/
def hanging : State :=
  { State.reset with
    cfg := { Config.hardware with bounded := false }, ph := .ack1, busy := true, host := [quiet, quiet],
    sens := [allLines true, allLines true] }

theorem witness_UnboundedWaitHangs :
    hanging.cfg.bounded = false ∧ awaited hanging.cfg hanging.ph = some false ∧ hanging.pin.toNat < hanging.cfg.nPins ∧
    lineBit hanging.oeLow hanging.pin = false ∧ NoReset hanging 2 ∧ ∀ i, i < 2 → hanging.sensAt i hanging.pin ≠ false :=
  ⟨rfl, rfl, by decide, by decide, quiet_run (by decide) (by decide), by decide⟩

theorem witness_UnboundedSetsNoFlag : hanging.cfg.bounded = false ∧ ∃ t, step hanging = .next t := ⟨rfl, ⟨_, rfl⟩⟩

/-- An unbounded build whose four waits all wait for the high level. -/
def patient : Config :=
  { tiny with bounded := false, ack1Level := true, ack2Level := true, bitw1Level := true, bitw2Level := true }

theorem tiny_waitTimesOut {L : Nat → Level} {e : Nat} (c : Config) (hc : c.tTimeout = 1) (h : L e = true) :
    waitTimesOut c L true e = false := by
  simp [waitTimesOut, firstAt, hc, h]

/-- On a line that stays high every wait of that build sees its level at the first sample (`T = 1`). -/
theorem witness_UnboundedCaptureClosedForm :
    let s := calling patient (commandWord 0 Quantity.humidity.code) true
    let L := levelFrom s 0
    let c := { s.cfg with tTimeout := 1 }
    s.cfg.Legal ∧ s.cfg.bounded = false ∧ Accepts s .humidity 0 ∧ ackTimesOut c L 0 = false ∧ bitTimesOut c L 0 = false ∧
    NoReset s (finishAt c L 0) := by
  intro s L c
  have hw : ∀ v e, waitEnd c L v e = e := fun v e => tiny_wait L v e
  have hb : ∀ i, bitStart c L 0 i = 5 + 3 * i := by
    intro i
    induction i with
    | zero => simp only [bitStart, ack2End, ack1End, ack1Start, hw]; rfl
    | succ i ih => simp only [bitStart, hw, ih, show c.tSample = 1 from rfl]; omega
  have hl : ∀ {k}, k < 200 → L k = true := fun h => calling_level _ _ _ _ h
  have hf : finishAt c L 0 = 125 := by
    simp only [finishAt, bitSample, bitFall, bitHigh, hw, hb]; rfl
  refine ⟨by constructor <;> decide, rfl, calling_accepts _ _ _ _ (by decide), ?_, ?_, ?_⟩
  · have h1 := tiny_waitTimesOut (L := L) (e := ack1Start c 0) c rfl (hl (by decide))
    have h2 := tiny_waitTimesOut (L := L) (e := ack1End c L 0 + 1) c rfl
      (hl (by simp only [ack1End, hw]; decide))
    show (_ || _) = false
    exact Bool.or_eq_false_iff.mpr ⟨h1, h2⟩
  · rw [bitTimesOut, List.any_eq_false]
    intro i hi
    have hi : i < 40 := by simpa using hi
    have h1 := tiny_waitTimesOut (L := L) (e := bitStart c L 0 i) c rfl (hl (by rw [hb]; omega))
    have h2 := tiny_waitTimesOut (L := L) (e := bitHigh c L 0 i + 1) c rfl
      (hl (by simp only [bitHigh, hw, hb]; omega))
    exact Bool.not_eq_true _ ▸ Bool.or_eq_false_iff.mpr ⟨h1, h2⟩
  · rw [hf]; exact calling_quiet _ _ _ (by decide)

/-- The three ways in which no wait is at its last failed sample: the level is there at the last sample, a failed sample
before it, and a phase that is no wait. -/
theorem witness_VariantsAgree :
    ((waitingBit 99 true).Inv ∧ (waitingBit 99 true).cfg.bounded = true ∧
      lineRead (waitingBit 99 true).pin (waitingBit 99 true) = Config.hardware.bitw1Level ∧
      ∃ t, step (waitingBit 99 true) = .next t) ∧
    ((waitingBit 98 false).Inv ∧ (waitingBit 98 false).cnt + 1 < Config.hardware.tTimeout ∧
      ∃ t, step (waitingBit 98 false) = .next t) ∧
    ((started tiny).Inv ∧ awaited tiny (started tiny).ph = none ∧ ∃ t, step (started tiny) = .next t) :=
  ⟨⟨waitingBit_inv _ (by omega), rfl, by decide, ⟨_, rfl⟩⟩, ⟨waitingBit_inv _ (by omega), by decide, ⟨_, rfl⟩⟩,
    ⟨started_inv tiny_legal, rfl, ⟨_, rfl⟩⟩⟩

/-! ### Independence, and the host's view -/

theorem witness_FlagsAreNeverRead : ∃ t, Runs 3 (calling tiny 0x02 true) t := ⟨_, rfl⟩

theorem witness_CaptureIndependentOfQuantity :
    (capturing (waitingBit 99 false).ph = true ∧ ((waitingBit 99 false).hostAt 0).rst = false ∧
      ∃ t, step (waitingBit 99 false) = .next t) ∧
    capturing .start = true ∧ capturing .bitdly = true := ⟨⟨rfl, rfl, ⟨_, rfl⟩⟩, rfl, rfl⟩

/-- Readable tags: each of the three. -/
theorem witness_HostRegisterReads :
    (State.reset.busy = false ∧ tag State.reset = some .stale) ∧
    tag { State.reset with fresh := true, ackTo := true } = some .fresh ∧
    tag { State.reset with ackTo := true } = some .noResponse := by decide

theorem witness_HostWritePresentsCommand :
    (at' .idle 0 quiet true).ph = .idle ∧ ((at' .idle 0 quiet true).hostAt 0).rst = false ∧
    (0#6).toNat < (at' .idle 0 quiet true).cfg.nPins := by decide

end Sys2Proof.Tests
end

/-! # The steps and the inputs (R4, R7, R27)

What each phase rule can leave, said once per rule with its guards, and from it: no rule touches the build parameters or
the inputs, so that a step moves on by exactly one. -/

namespace Sys2Proof.Machine

/-! ## What a phase rule that goes on leaves -/

section
variable {s t : State}

/-- A line access that goes on: the line exists and the continuation is what is left (R32). -/
theorem requireLine_next_eq {p : PinNo} {u : State} (h : requireLine p s (.next u) = .next t) :
    p.toNat < s.cfg.nPins ∧ t = u := by
  obtain ⟨hp, hu⟩ := requireLine_next h
  exact ⟨hp, by simpa using hu.symm⟩

/-- R58: a legal presented word is accepted; any other input leaves only `DONE <- 0`. -/
theorem execPhIdle_cases (h : execPhIdle s = .next t) :
    (∃ q, quantityOf (qField s.hostNow.cmdWord) = some q ∧ s.hostNow.cmdValid = true ∧
      (pinField s.hostNow.cmdWord).toNat < s.cfg.nPins ∧ t = accept q (pinField s.hostNow.cmdWord) (clearDone s)) ∨
    ((quantityOf (qField s.hostNow.cmdWord) = none ∨
      ¬ (s.hostNow.cmdValid = true ∧ (pinField s.hostNow.cmdWord).toNat < s.cfg.nPins)) ∧ t = clearDone s) := by
  unfold execPhIdle at h
  cases hq : quantityOf (qField s.hostNow.cmdWord) with
  | none => exact .inr ⟨.inl rfl, by simpa [hq] using h.symm⟩
  | some q =>
    simp only [hq] at h
    split at h
    · next hg => exact .inl ⟨q, rfl, hg.1, hg.2, by simpa using h.symm⟩
    · next hg => exact .inr ⟨.inr hg, by simpa using h.symm⟩

/-- R59: the line is released at the end of the pulse, else the pulse is counted. -/
theorem execPhStart_cases (h : execPhStart s = .next t) :
    (s.cnt + 1 = s.cfg.tStart ∧ s.pin.toNat < s.cfg.nPins ∧
      t = enterPhase .settle (lineDrive s.pin false (clearDone s))) ∨
    (s.cnt + 1 ≠ s.cfg.tStart ∧ t = countUp (clearDone s)) := by
  unfold execPhStart at h
  split at h
  · next hc => exact .inl ⟨hc, requireLine_next_eq h⟩
  · next hc => exact .inr ⟨hc, by simpa using h.symm⟩

/-- R60: the settling time ends, or is counted. -/
theorem execPhSettle_cases (h : execPhSettle s = .next t) :
    (s.cnt + 1 = s.cfg.tSettle ∧ t = enterPhase .ack1 (clearDone s)) ∨
    (s.cnt + 1 ≠ s.cfg.tSettle ∧ t = countUp (clearDone s)) := by
  unfold execPhSettle at h
  split at h
  · next hc => exact .inl ⟨hc, by simpa using h.symm⟩
  · next hc => exact .inr ⟨hc, by simpa using h.symm⟩

/-- R67: the bit is sampled on an existing line into an existing cell, or the delay is counted. -/
theorem execPhBitdly_cases (h : execPhBitdly s = .next t) :
    (s.cnt + 1 = s.cfg.tSample ∧ s.pin.toNat < s.cfg.nPins ∧ s.bitidx.toNat < 40 ∧
      t = nextBit (storeSample (clearDone s))) ∨
    (s.cnt + 1 ≠ s.cfg.tSample ∧ t = countUp (clearDone s)) := by
  unfold execPhBitdly at h
  split at h
  · next hc =>
    obtain ⟨hp, hcell⟩ := requireLine_next h
    obtain ⟨hi, hu⟩ := requireCell_next hcell
    exact .inl ⟨hc, hp, hi, by simpa using hu.symm⟩
  · next hc => exact .inr ⟨hc, by simpa using h.symm⟩

end

/-! ## The fields no rule writes -/

/-- `t` has the build parameters and the inputs of `s`, at the same step index. -/
structure SameInputs (s t : State) : Prop where
  cfg : t.cfg = s.cfg
  host : t.host = s.host
  sens : t.sens = s.sens
  tick : t.tick = s.tick

section
variable {s t : State}

/-- A wait writes none of them, in any of its four arms (R61). -/
theorem waitLevel_sameInputs (v : Level) (f : TimeoutFlag) (p : Phase) (s : State) :
    SameInputs s (waitLevel v f p s) := by
  obtain ⟨-, e⟩ | ⟨-, -, -, e⟩ | ⟨-, -, -, e⟩ | ⟨-, -, e⟩ := waitLevel_cases v f p s
  all_goals rw [e]; constructor <;> simp

/-- The whole step of a wait phase: the line access, then the sample. -/
theorem waitStep_sameInputs {v : Level} {f : TimeoutFlag} {p : Phase}
    (h : requireLine s.pin s (.next (waitLevel v f p (clearDone s))) = .next t) : SameInputs s t := by
  obtain ⟨-, rfl⟩ := requireLine_next_eq h
  obtain ⟨hcfg, hhost, hsens, htick⟩ := waitLevel_sameInputs v f p (clearDone s)
  exact ⟨hcfg, hhost, hsens, htick⟩

theorem execPhIdle_sameInputs (h : execPhIdle s = .next t) : SameInputs s t := by
  obtain ⟨q, -, -, -, rfl⟩ | ⟨-, rfl⟩ := execPhIdle_cases h
  · exact ⟨rfl, rfl, rfl, rfl⟩
  · exact ⟨rfl, rfl, rfl, rfl⟩

theorem execPhStart_sameInputs (h : execPhStart s = .next t) : SameInputs s t := by
  obtain ⟨-, -, rfl⟩ | ⟨-, rfl⟩ := execPhStart_cases h
  · exact ⟨rfl, rfl, rfl, rfl⟩
  · exact ⟨rfl, rfl, rfl, rfl⟩

theorem execPhSettle_sameInputs (h : execPhSettle s = .next t) : SameInputs s t := by
  obtain ⟨-, rfl⟩ | ⟨-, rfl⟩ := execPhSettle_cases h
  · exact ⟨rfl, rfl, rfl, rfl⟩
  · exact ⟨rfl, rfl, rfl, rfl⟩

theorem execPhBitdly_sameInputs (h : execPhBitdly s = .next t) : SameInputs s t := by
  obtain ⟨-, -, -, rfl⟩ | ⟨-, rfl⟩ := execPhBitdly_cases h
  · constructor <;> simp
  · exact ⟨rfl, rfl, rfl, rfl⟩

theorem execPhFinish_sameInputs (h : execPhFinish s = .next t) : SameInputs s t := by
  obtain rfl : finishCall (clearDone s) = t := by simpa [execPhFinish] using h
  exact ⟨rfl, rfl, rfl, rfl⟩

/-- The rule of whatever phase `ph` holds writes none of them. -/
theorem phaseStep_sameInputs (h : phaseStep s = .next t) : SameInputs s t := by
  unfold phaseStep at h
  cases hph : s.ph <;> rw [hph] at h
  case idle => exact execPhIdle_sameInputs h
  case start => exact execPhStart_sameInputs h
  case settle => exact execPhSettle_sameInputs h
  case bitdly => exact execPhBitdly_sameInputs h
  case finish => exact execPhFinish_sameInputs h
  case ack1 | ack2 | bitw1 | bitw2 => exact waitStep_sameInputs h

/-- A presented read is accepted, ignored, or lost to the rule of the phase (R46, R55, R58). -/
theorem presentRead_sameInputs {q : Quantity} {pin : PinNo} (h : presentRead q pin s = .next t) : SameInputs s t := by
  unfold presentRead at h
  split at h
  · split at h
    · cases h; exact ⟨rfl, rfl, rfl, rfl⟩
    · cases h; exact ⟨rfl, rfl, rfl, rfl⟩
  · exact phaseStep_sameInputs h

theorem execReservedQ3_sameInputs {pin : PinNo} (h : execReservedQ3 pin s = .next t) : SameInputs s t := by
  unfold execReservedQ3 at h
  split at h
  · cases h; exact ⟨rfl, rfl, rfl, rfl⟩
  · exact phaseStep_sameInputs h

/-- No instruction writes the build parameters or the inputs. -/
theorem exec_sameInputs {i : Instr} (h : exec i s = .next t) : SameInputs s t := by
  cases i with
  | readTC | readTF | readRH => exact presentRead_sameInputs h
  | reservedQ3 pin => exact execReservedQ3_sameInputs (pin := pin) h
  | phIdle => exact execPhIdle_sameInputs h
  | phStart => exact execPhStart_sameInputs h
  | phSettle => exact execPhSettle_sameInputs h
  | phAck1 | phAck2 | phBitw1 | phBitw2 => exact waitStep_sameInputs h
  | phBitdly => exact execPhBitdly_sameInputs h
  | phFinish => exact execPhFinish_sameInputs h

theorem runFetched_sameInputs (h : runFetched s = .next t) : SameInputs s t := by
  unfold runFetched at h
  split at h
  · exact exec_sameInputs h
  · exact exec_sameInputs h

/-- A step, reset or not, is a change that leaves the parameters and inputs alone, then `advance`. -/
theorem step_sameInputs_advance (h : step s = .next t) : ∃ u, SameInputs s u ∧ t = advance u := by
  obtain ⟨-, rfl⟩ | ⟨-, u, hu, rfl⟩ := step_cases h
  · exact ⟨applyReset s, ⟨rfl, rfl, rfl, rfl⟩, rfl⟩
  · exact ⟨u, runFetched_sameInputs hu, rfl⟩

end

/-- Settles O29: the step leaves the parameters and inputs alone and then advances, and `advance` shifts both input
sequences by one, scripted or free. -/
theorem stepTakesNextInputs : Obligations.StepTakesNextInputs := by
  intro s t h
  obtain ⟨u, ⟨hcfg, hhost, hsens, htick⟩, rfl⟩ := step_sameInputs_advance h
  refine ⟨hcfg, fun k => ?_, fun k p => ?_⟩
  · rw [hostAt_advance, hostAt_congr hhost htick]
  · rw [sensAt_advance, sensAt_congr hsens htick]

end Sys2Proof.Machine

/-! # The moves of the block (R16, R31, R56)

A step without reset is the rule of the phase `ph` holds; `PhaseMove` lists, once, everything such a rule can leave. -/

namespace Sys2Proof.Machine

/-! ## The step is the rule of its phase (R56) -/

/-- The quantity field of a command word is the one it was built from (R44). -/
@[simp] theorem qField_commandWord (pin : PinNo) (q : BitVec 2) : qField (commandWord pin q) = q := by
  revert pin q; decide

/-- The pin field of a command word is the one it was built from (R44). -/
@[simp] theorem pinField_commandWord (pin : PinNo) (q : BitVec 2) : pinField (commandWord pin q) = pin := by
  revert pin q; decide

/-- Each quantity is the one its code names (R45). -/
@[simp] theorem quantityOf_code (q : Quantity) : quantityOf q.code = some q := by cases q <;> rfl

/-- Each phase is the one its code names (R49). -/
@[simp] theorem phaseOf_code (p : Phase) : phaseOf p.code = some p := by cases p <;> rfl

section
variable {s t u : State}

/-- A read of any quantity is executed as the presented read. -/
theorem exec_read (q : Quantity) (pin : PinNo) (s : State) : exec (q.read pin) s = presentRead q pin s := by
  cases q <;> rfl

/-- The phase-step instruction of `ph` is the rule of `ph`. -/
theorem exec_instr (s : State) : exec s.ph.instr s = phaseStep s := by
  unfold phaseStep; cases s.ph <;> rfl

/-- A presented command word has the effect R58 gives it, whatever the decoder makes of it. -/
theorem runFetched_of_presented (hph : s.ph = .idle) (hv : s.hostNow.cmdValid = true) :
    runFetched s = execPhIdle s := by
  have hword : fetchWord s = .cw8 s.hostNow.cmdWord := if_pos ⟨hph, hv⟩
  unfold runFetched fetch execPhIdle
  rw [hword]
  simp only [decode, decodeCommand]
  cases hq : quantityOf (qField s.hostNow.cmdWord) with
  | none => exact if_pos hph
  | some q =>
    by_cases hp : (pinField s.hostNow.cmdWord).toNat < s.cfg.nPins
    · simp [hp, hv, hph, exec_read, presentRead]
    · simp [hp, exec, execPhIdle, hq]

/-- R56: with `rst = 0` the fetched instruction is the rule of the phase, in IDLE whatever the host presents. -/
theorem runFetched_eq_phaseStep (s : State) : runFetched s = phaseStep s := by
  by_cases hp : s.ph = .idle ∧ s.hostNow.cmdValid = true
  · rw [runFetched_of_presented hp.1 hp.2]
    simp [phaseStep, hp.1]
  · have hword : fetchWord s = .ph4 s.ph.code := if_neg hp
    simp [runFetched, fetch, hword, decode, decodePhase, exec_instr]

/-! ## What a phase rule can leave -/

/-- `IsWait c p v f p'`: in the build `c` phase `p` is the wait for level `v` that raises `f` on a timeout and leads to
`p'` (R62 to R65). -/
inductive IsWait (c : Config) : Phase → Level → TimeoutFlag → Phase → Prop
  | ack1 : IsWait c .ack1 c.ack1Level .ackTo .ack2
  | ack2 : IsWait c .ack2 c.ack2Level .ackTo .bitw1
  | bitw1 : IsWait c .bitw1 c.bitw1Level .bitTo .bitw2
  | bitw2 : IsWait c .bitw2 c.bitw2Level .bitTo .bitdly

namespace IsWait

variable {c : Config} {p p' : Phase} {v : Level} {f : TimeoutFlag}

theorem awaited_eq (h : IsWait c p v f p') : awaited c p = some v := by cases h <;> rfl

theorem capturing_eq (h : IsWait c p v f p') : capturing p = true := by cases h <;> rfl

theorem cntBound_eq (h : IsWait c p v f p') : cntBound c p = if c.bounded then c.tTimeout else 1 := by cases h <;> rfl

theorem ne_idle (h : IsWait c p v f p') : p ≠ .idle := by cases h <;> decide

theorem ne_start (h : IsWait c p v f p') : p ≠ .start := by cases h <;> decide

theorem ne_finish (h : IsWait c p v f p') : p ≠ .finish := by cases h <;> decide

theorem next_ne (h : IsWait c p v f p') : p' ≠ p := by cases h <;> decide

theorem next_ne_idle (h : IsWait c p v f p') : p' ≠ .idle := by cases h <;> decide

theorem next_ne_start (h : IsWait c p v f p') : p' ≠ .start := by cases h <;> decide

theorem next_ne_finish (h : IsWait c p v f p') : p' ≠ .finish := by cases h <;> decide

/-- No wait of the capture loop leads back to a phase before it (R16). -/
theorem beforeLoop_of_next (h : IsWait c p v f p') : beforeLoop p' = true → beforeLoop p = true := by cases h <;> decide

/-- Only the acknowledgement waits raise ACK_TO (R24). -/
theorem ph_of_ackTo (h : IsWait c p v .ackTo p') : p = .ack1 ∨ p = .ack2 := by cases h <;> decide

/-- Only the bit waits raise BIT_TO (R25). -/
theorem ph_of_bitTo (h : IsWait c p v .bitTo p') : p = .bitw1 ∨ p = .bitw2 := by cases h <;> decide

/-- A wait leads to the next phase of the order (R16). -/
theorem follows {s : State} (h : IsWait c s.ph v f p') : follows s p' := by
  unfold Machine.follows
  generalize s.ph = p at h
  cases h <;> exact .inr rfl

end IsWait

/-- `PhaseMove s u`: the rule of the phase of `s` goes on and leaves `u`, the inputs not yet moved on. One constructor per
arm of R58 to R68, with the arm's guards. -/
inductive PhaseMove (s : State) : State → Prop
  /-- R58: no legal command word is presented. -/
  | ignored (hph : s.ph = .idle)
      (hw : quantityOf (qField s.hostNow.cmdWord) = none ∨
        ¬ (s.hostNow.cmdValid = true ∧ (pinField s.hostNow.cmdWord).toNat < s.cfg.nPins)) :
      PhaseMove s (clearDone s)
  /-- R58: a legal command word is accepted. -/
  | accepted (q : Quantity) (hph : s.ph = .idle) (hq : quantityOf (qField s.hostNow.cmdWord) = some q)
      (hv : s.hostNow.cmdValid = true) (hpin : (pinField s.hostNow.cmdWord).toNat < s.cfg.nPins) :
      PhaseMove s (accept q (pinField s.hostNow.cmdWord) (clearDone s))
  /-- R59: the start pulse ends. -/
  | released (hph : s.ph = .start) (hc : s.cnt + 1 = s.cfg.tStart) (hpin : s.pin.toNat < s.cfg.nPins) :
      PhaseMove s (enterPhase .settle (lineDrive s.pin false (clearDone s)))
  /-- R60: the settling time ends. -/
  | settled (hph : s.ph = .settle) (hc : s.cnt + 1 = s.cfg.tSettle) :
      PhaseMove s (enterPhase .ack1 (clearDone s))
  /-- R59, R60, R67: a phase of fixed length counts. -/
  | counted (hph : s.ph = .start ∨ s.ph = .settle ∨ s.ph = .bitdly) (hc : s.cnt + 1 ≠ cntBound s.cfg s.ph) :
      PhaseMove s (countUp (clearDone s))
  /-- R61: the awaited level is observed. -/
  | observed {v : Level} {f : TimeoutFlag} {p : Phase} (hw : IsWait s.cfg s.ph v f p)
      (hpin : s.pin.toNat < s.cfg.nPins) (hl : lineRead s.pin s = v) : PhaseMove s (enterPhase p (clearDone s))
  /-- R61: the last sample has failed too. -/
  | timedOut {v : Level} {f : TimeoutFlag} {p : Phase} (hw : IsWait s.cfg s.ph v f p)
      (hpin : s.pin.toNat < s.cfg.nPins) (hl : lineRead s.pin s ≠ v) (hb : s.cfg.bounded = true)
      (hc : s.cfg.tTimeout ≤ s.cnt + 1) : PhaseMove s (enterPhase p (raiseFlag f (clearDone s)))
  /-- R61: one more failed sample. -/
  | missed {v : Level} {f : TimeoutFlag} {p : Phase} (hw : IsWait s.cfg s.ph v f p)
      (hpin : s.pin.toNat < s.cfg.nPins) (hl : lineRead s.pin s ≠ v) (hb : s.cfg.bounded = true)
      (hc : s.cnt + 1 < s.cfg.tTimeout) : PhaseMove s (countUp (clearDone s))
  /-- R66: the unbounded wait stays. -/
  | stayed {v : Level} {f : TimeoutFlag} {p : Phase} (hw : IsWait s.cfg s.ph v f p)
      (hpin : s.pin.toNat < s.cfg.nPins) (hl : lineRead s.pin s ≠ v) (hb : s.cfg.bounded = false) :
      PhaseMove s (clearDone s)
  /-- R67: the sample of bit 39. -/
  | sampledLast (hph : s.ph = .bitdly) (hc : s.cnt + 1 = s.cfg.tSample) (hpin : s.pin.toNat < s.cfg.nPins)
      (hi : s.bitidx = 39#6) : PhaseMove s (enterPhase .finish (storeSample (clearDone s)))
  /-- R67: the sample of a bit before bit 39. -/
  | sampledMore (hph : s.ph = .bitdly) (hc : s.cnt + 1 = s.cfg.tSample) (hpin : s.pin.toNat < s.cfg.nPins)
      (hi : s.bitidx.toNat < 39) :
      PhaseMove s (enterPhase .bitw1 { storeSample (clearDone s) with bitidx := s.bitidx + 1#6 })
  /-- R68: the end of the call. -/
  | finished (hph : s.ph = .finish) : PhaseMove s (finishCall (clearDone s))

/-- The step of a wait phase. -/
theorem PhaseMove.of_wait {v : Level} {f : TimeoutFlag} {p : Phase} (hw : IsWait s.cfg s.ph v f p)
    (h : requireLine s.pin s (.next (waitLevel v f p (clearDone s))) = .next u) : PhaseMove s u := by
  obtain ⟨hpin, rfl⟩ := requireLine_next_eq h
  obtain ⟨hl, e⟩ | ⟨hl, hb, hc, e⟩ | ⟨hl, hb, hc, e⟩ | ⟨hl, hb, e⟩ := waitLevel_cases v f p (clearDone s)
  · rw [e]; exact .observed hw hpin hl
  · rw [e]; exact .timedOut hw hpin hl hb hc
  · rw [e]; exact .missed hw hpin hl hb hc
  · rw [e]; exact .stayed hw hpin hl hb

/-- The sample step of BITDLY. -/
theorem PhaseMove.of_sample (hph : s.ph = .bitdly) (hc : s.cnt + 1 = s.cfg.tSample)
    (hpin : s.pin.toNat < s.cfg.nPins) (hi : s.bitidx.toNat < 40) :
    PhaseMove s (nextBit (storeSample (clearDone s))) := by
  by_cases h39 : s.bitidx = 39#6
  · rw [nextBit_last (s := storeSample (clearDone s)) h39]
    exact .sampledLast hph hc hpin h39
  · rw [nextBit_more (s := storeSample (clearDone s)) h39]
    have : s.bitidx.toNat ≠ 39 := fun e => h39 (BitVec.eq_of_toNat_eq e)
    exact .sampledMore hph hc hpin (by omega)

/-- Every phase rule that goes on makes one of the moves. -/
theorem PhaseMove.of_phaseStep (h : phaseStep s = .next u) : PhaseMove s u := by
  unfold phaseStep at h
  cases hph : s.ph <;> rw [hph] at h
  case idle =>
    obtain ⟨q, hq, hv, hpin, rfl⟩ | ⟨hw, rfl⟩ := execPhIdle_cases h
    · exact .accepted q hph hq hv hpin
    · exact .ignored hph hw
  case start =>
    obtain ⟨hc, hpin, rfl⟩ | ⟨hc, rfl⟩ := execPhStart_cases h
    · exact .released hph hc hpin
    · exact .counted (.inl hph) (by rwa [hph])
  case settle =>
    obtain ⟨hc, rfl⟩ | ⟨hc, rfl⟩ := execPhSettle_cases h
    · exact .settled hph hc
    · exact .counted (.inr (.inl hph)) (by rwa [hph])
  case ack1 => exact .of_wait (hph ▸ .ack1) h
  case ack2 => exact .of_wait (hph ▸ .ack2) h
  case bitw1 => exact .of_wait (hph ▸ .bitw1) h
  case bitw2 => exact .of_wait (hph ▸ .bitw2) h
  case bitdly =>
    obtain ⟨hc, hpin, hi, rfl⟩ | ⟨hc, rfl⟩ := execPhBitdly_cases h
    · exact .of_sample hph hc hpin hi
    · exact .counted (.inr (.inr hph)) (by rwa [hph])
  case finish =>
    obtain rfl : finishCall (clearDone s) = u := by simpa [execPhFinish] using h
    exact .finished hph

/-- All that a step that goes on can be: reset, or a move of the phase, then the next inputs (R56). -/
theorem step_moves (h : step s = .next t) :
    (s.hostNow.rst = true ∧ t = advance (applyReset s)) ∨
    (s.hostNow.rst = false ∧ ∃ u, PhaseMove s u ∧ t = advance u) := by
  obtain hreset | ⟨hr, u, hu, rfl⟩ := step_cases h
  · exact .inl hreset
  · exact .inr ⟨hr, u, .of_phaseStep (runFetched_eq_phaseStep s ▸ hu), rfl⟩

/-- A step without reset is a move, then the next inputs. -/
theorem step_moves_of_rst (hr : (s.hostAt 0).rst = false) (h : step s = .next t) :
    ∃ u, PhaseMove s u ∧ t = advance u := by
  obtain ⟨hr', -⟩ | ⟨-, hmove⟩ := step_moves h
  · exact absurd (hr.symm.trans hr') (by decide)
  · exact hmove

end

/-! ## Each move keeps the invariant -/

/-- The index of the next bit does not wrap (R18). -/
theorem toNat_bitidx_succ {i : BitVec 6} (h : i.toNat < 39) : (i + 1#6).toNat = i.toNat + 1 := by
  rw [BitVec.toNat_add, BitVec.toNat_ofNat]; omega

namespace State.Inv

variable {s u : State}

/-- A new frame buffer keeps the invariant if its cells not yet sampled read 0 (R33). -/
theorem setFb {fb : FrameBuffer} (h : s.Inv)
    (hfb : capturing s.ph = true → ∀ i : Nat, s.bitidx.toNat ≤ i → cell fb i = false) : { s with fb := fb }.Inv :=
  ⟨h.legal, h.pin_lt, h.bitidx_le, h.bitidx_zero, h.cnt_lt, h.driver, h.busy_iff, h.done_idle,
    h.fresh_idle, hfb, h.lastH_le, h.lastT_le, h.result_le⟩

/-- On to the next bit, before bit 39 (R18). -/
theorem nextIndex (h : s.Inv) (hph : s.ph = .bitdly) (hi : s.bitidx.toNat < 39) :
    { s with bitidx := s.bitidx + 1#6 }.Inv := by
  have hnext := toNat_bitidx_succ hi
  have hcap : capturing s.ph = true := by rw [hph]; rfl
  exact ⟨h.legal, h.pin_lt, by simp only [hnext]; omega, fun e => by simp [hph, beforeLoop] at e, h.cnt_lt, h.driver,
    h.busy_iff, h.done_idle, h.fresh_idle, fun _ i hle => h.unsampled hcap i (by simp only [hnext] at hle; omega),
    h.lastH_le, h.lastT_le, h.result_le⟩

/-- The sample of bit 39 ends the capture (R67). -/
theorem sampleLast (h : s.Inv) (hph : s.ph = .bitdly) (hd : s.done = false) :
    (Machine.enterPhase .finish (storeSample s)).Inv :=
  setFb (s := Machine.enterPhase .finish s)
    (h.enterPhase hd (by rw [hph]; rfl) (by rw [hph]; decide) (by decide) (by decide)
      (by simp [beforeLoop]))
    fun e => by simp [capturing] at e

/-- The sample of an earlier bit leaves the cells after it at 0 (R33, R67). -/
theorem sampleMore (h : s.Inv) (hph : s.ph = .bitdly) (hd : s.done = false) (hi : s.bitidx.toNat < 39) :
    (Machine.enterPhase .bitw1 { storeSample s with bitidx := s.bitidx + 1#6 }).Inv := by
  have hbit := (h.nextIndex hph hi).enterPhase (p := .bitw1) hd (by simp [hph, capturing]) (by simp [hph]) (by decide)
    (by decide) (by simp [beforeLoop])
  refine hbit.setFb fun hcap i hle => ?_
  have hafter : s.bitidx.toNat + 1 ≤ i := toNat_bitidx_succ hi ▸ hle
  exact (cell_set_other s.fb (by omega) _).trans (hbit.unsampled hcap i hle)

/-- The end of the call (R68): the pair and RESULT stay in their ranges (R74). -/
theorem finishCall (h : s.Inv) (hph : s.ph = .finish) : (Machine.finishCall s).Inv where
  legal := h.legal
  pin_lt := h.pin_lt
  bitidx_le := h.bitidx_le
  bitidx_zero := fun e => by simp [beforeLoop] at e
  cnt_lt := (cntBound_legal h.legal .idle).1
  driver := fun p => by
    have := h.driver p
    simp only [hph] at this
    simpa using this
  busy_iff := by simp
  done_idle := fun _ => rfl
  fresh_idle := fun _ => rfl
  unsampled := fun e => by simp [capturing] at e
  lastH_le := (commit_le _ s.fb h.lastH_le h.lastT_le).1
  lastT_le := (commit_le _ s.fb h.lastH_le h.lastT_le).2
  result_le := by
    have hpair := commit_le (validate (frameBytes s.fb)) s.fb h.lastH_le h.lastT_le
    have hrep := report_le s.q hpair.1 hpair.2
    rw [finishCall_result, BitVec.toNat_ofNat, finishCall_lastH, finishCall_lastT]
    exact (Nat.mod_le _ _).trans hrep

/-- A wait over, seen or timed out: the next phase begins (R61). -/
theorem leaveWait {v : Level} {f : TimeoutFlag} {p : Phase} (h : s.Inv) (hd : s.done = false)
    (hw : IsWait s.cfg s.ph v f p) : (Machine.enterPhase p s).Inv :=
  h.enterPhase hd hw.capturing_eq hw.ne_start hw.next_ne_start hw.next_ne_idle hw.beforeLoop_of_next

/-- Every move of a phase keeps the invariant. -/
theorem move (h : s.Inv) (hm : PhaseMove s u) : u.Inv := by
  have hclear := h.clearDone
  have hlt := h.cnt_lt
  cases hm with
  | ignored hph hw => exact hclear
  | accepted q hph hq hv hpin => exact hclear.accept hph rfl q hpin
  | released hph hc hpin => exact hclear.release hph rfl
  | settled hph hc =>
    exact hclear.enterPhase rfl (by simp [hph, capturing]) (by simp [hph]) (by decide) (by decide)
      (by simp [hph, beforeLoop])
  | counted hph hc => exact hclear.countUp (by simp only [clearDone_cnt, clearDone_cfg, clearDone_ph]; omega)
  | observed hw hpin hl => exact hclear.leaveWait rfl hw
  | @timedOut v f p hw hpin hl hb hc =>
    exact (hclear.raiseFlag f).leaveWait (by simp) (by simpa using hw)
  | missed hw hpin hl hb hc => exact hclear.countUp (by simp [hw.cntBound_eq, hb, hc])
  | stayed hw hpin hl hb => exact hclear
  | sampledLast hph hc hpin hi => exact hclear.sampleLast hph rfl
  | sampledMore hph hc hpin hi => exact hclear.sampleMore hph rfl hi
  | finished hph => exact hclear.finishCall hph

end State.Inv

/-- Settles O27: a reset leaves the reset state of the same legal build, and every move of a phase keeps the invariant. -/
theorem stepKeepsInvariant : Obligations.StepKeepsInvariant := by
  intro s t h hst
  obtain ⟨-, rfl⟩ | ⟨-, u, hm, rfl⟩ := step_moves hst
  · exact (State.Inv.applyReset h.legal).advance
  · exact (h.move hm).advance

/-- Settles O26: the reset state is the reset of any state of this hardware's build, which is legal. -/
theorem resetInvariant : Obligations.ResetInvariant :=
  State.Inv.applyReset (s := State.reset) (by constructor <;> decide)

/-! ## Which move writes which element (R31) -/

/-- The verdict is the checksum test of R70. -/
theorem validate_iff (fb : FrameBuffer) : validate (frameBytes fb) = true ↔ Claims.ChecksumOk fb := by
  simp [validate, frameBytes, Claims.ChecksumOk]

namespace PhaseMove

variable {s u : State}

/-- `LAST_H` and `LAST_T`: the commit of a valid frame (R10, R11). -/
theorem lastPair_writer (hm : PhaseMove s u) (hne : u.lastH ≠ s.lastH ∨ u.lastT ≠ s.lastT) :
    s.ph = .finish ∧ Claims.ChecksumOk s.fb := by
  cases hm
  case finished hph =>
    refine ⟨hph, (validate_iff s.fb).mp ?_⟩
    by_contra hbad
    rw [Bool.not_eq_true] at hbad
    simp [hbad, commit_not] at hne
  all_goals simp at hne

/-- `FB`: cleared by the acceptance, one cell stored by the sample (R12). -/
theorem fb_writer (hm : PhaseMove s u) (hne : u.fb ≠ s.fb) :
    (s.ph = .idle ∧ u.ph = .start ∧ ∀ j, cell u.fb j = false) ∨
    (s.ph = .bitdly ∧ u.ph ≠ .bitdly ∧ ∀ j, j ≠ s.bitidx.toNat → cell u.fb j = cell s.fb j) := by
  cases hm
  case accepted hph _ _ _ => exact .inl ⟨hph, rfl, cell_replicate⟩
  case sampledLast hph _ _ _ => exact .inr ⟨hph, by simp, fun j hj => cell_set_other s.fb hj _⟩
  case sampledMore hph _ _ _ => exact .inr ⟨hph, by simp, fun j hj => cell_set_other s.fb hj _⟩
  all_goals simp at hne

/-- `Q` and `PIN`: the acceptance (R14, R15). -/
theorem operands_writer (hm : PhaseMove s u) (hne : u.q ≠ s.q ∨ u.pin ≠ s.pin) : s.ph = .idle ∧ u.ph = .start := by
  cases hm
  case accepted hph _ _ _ => exact ⟨hph, rfl⟩
  all_goals simp at hne

/-- `cnt` is cleared by every phase change (R57). -/
theorem cnt_of_ph_ne (hm : PhaseMove s u) (hne : u.ph ≠ s.ph) : u.cnt = 0 := by
  cases hm
  case ignored | counted | missed | stayed => simp at hne
  all_goals rfl

/-- Inside a phase `cnt` only counts up, in the phases that count (R17). -/
theorem cnt_of_ph_eq (hm : PhaseMove s u) (heq : u.ph = s.ph) (hne : u.cnt ≠ s.cnt) :
    u.cnt = (s.cnt + 1) % 2 ^ s.cfg.cntW ∧ s.ph ≠ .idle ∧ s.ph ≠ .finish := by
  cases hm
  case counted hph _ => exact ⟨rfl, by rcases hph with e | e | e <;> simp [e]⟩
  case missed hw _ _ _ _ => exact ⟨rfl, hw.ne_idle, hw.ne_finish⟩
  case observed hw _ _ => exact absurd heq hw.next_ne
  case timedOut hw _ _ _ _ => exact absurd heq hw.next_ne
  case ignored | stayed => simp at hne
  all_goals simp [*] at heq

/-- `bitidx`: the acceptance, and the samples before the last (R18). -/
theorem bitidx_writer (hm : PhaseMove s u) (hne : u.bitidx ≠ s.bitidx) :
    (s.ph = .idle ∧ u.ph = .start ∧ u.bitidx = 0#6) ∨
    (s.ph = .bitdly ∧ u.ph = .bitw1 ∧ u.bitidx = s.bitidx + 1#6) := by
  cases hm
  case accepted hph _ _ _ => exact .inl ⟨hph, rfl, rfl⟩
  case sampledMore hph _ _ _ => exact .inr ⟨hph, rfl, rfl⟩
  all_goals simp at hne

/-- `OE_LOW`: the selected line, driven by the acceptance and released at the end of the start pulse (R19). -/
theorem oeLow_writer (hm : PhaseMove s u) (p : PinNo) (hne : lineBit u.oeLow p ≠ lineBit s.oeLow p) :
    (s.ph = .idle ∧ u.ph = .start ∧ p = u.pin ∧ lineBit u.oeLow p = true) ∨
    (s.ph = .start ∧ u.ph = .settle ∧ p = s.pin ∧ lineBit u.oeLow p = false) := by
  cases hm
  case accepted hph _ _ _ =>
    obtain rfl : p = pinField s.hostNow.cmdWord := by
      by_contra hp
      exact hne (by simp [lineBit_set, hp])
    exact .inl ⟨hph, rfl, rfl, by simp [lineBit_set]⟩
  case released hph _ _ =>
    obtain rfl : p = s.pin := by
      by_contra hp
      exact hne (by simp [lineBit_set, hp])
    exact .inr ⟨hph, rfl, rfl, by simp [lineBit_set]⟩
  all_goals simp at hne

/-- `RESULT`: the report (R20). -/
theorem result_writer (hm : PhaseMove s u) (hne : u.result ≠ s.result) : s.ph = .finish := by
  cases hm
  case finished hph => exact hph
  all_goals simp at hne

/-- `BUSY`: set by the acceptance, cleared by the end of the call (R21). -/
theorem busy_writer (hm : PhaseMove s u) (hne : u.busy ≠ s.busy) :
    (s.ph = .idle ∧ u.ph = .start ∧ u.busy = true) ∨ (s.ph = .finish ∧ u.busy = false) := by
  cases hm
  case accepted hph _ _ _ => exact .inl ⟨hph, rfl, rfl⟩
  case finished hph => exact .inr ⟨hph, rfl⟩
  all_goals simp at hne

/-- `DONE`: 1 after FINISH, 0 after every other step (R22). -/
theorem done_eq (hm : PhaseMove s u) : u.done = decide (s.ph = .finish) := by
  cases hm
  case counted hph _ => rcases hph with e | e | e <;> simp [e]
  case observed hw _ _ => simp [hw.ne_finish]
  case timedOut hw _ _ _ _ => simp [hw.ne_finish]
  case missed hw _ _ _ _ => simp [hw.ne_finish]
  case stayed hw _ _ _ => simp [hw.ne_finish]
  all_goals simp [*]

/-- `FRESH`: cleared by the acceptance, the verdict after FINISH (R23). -/
theorem fresh_writer (hm : PhaseMove s u) (hne : u.fresh ≠ s.fresh) :
    (s.ph = .idle ∧ u.ph = .start ∧ u.fresh = false) ∨ s.ph = .finish := by
  cases hm
  case accepted hph _ _ _ => exact .inl ⟨hph, rfl, rfl⟩
  case finished hph => exact .inr hph
  all_goals simp at hne

/-- `ACK_TO`: cleared by the acceptance, set by a timeout of ACK1 or ACK2 (R24). -/
theorem ackTo_writer (hm : PhaseMove s u) (hne : u.ackTo ≠ s.ackTo) :
    (s.ph = .idle ∧ u.ph = .start ∧ u.ackTo = false) ∨
    ((s.ph = .ack1 ∨ s.ph = .ack2) ∧ Claims.TimesOut s ∧ u.ackTo = true) := by
  cases hm
  case accepted hph _ _ _ => exact .inl ⟨hph, rfl, rfl⟩
  case timedOut v f p hw _ hl hb hc =>
    have hout : Claims.TimesOut s := ⟨v, hw.awaited_eq, hl, hb, hc⟩
    cases f with
    | ackTo => exact .inr ⟨hw.ph_of_ackTo, hout, rfl⟩
    | bitTo => simp at hne
  all_goals simp at hne

/-- `BIT_TO`: cleared by the acceptance, set by a timeout of BITW1 or BITW2 (R25). -/
theorem bitTo_writer (hm : PhaseMove s u) (hne : u.bitTo ≠ s.bitTo) :
    (s.ph = .idle ∧ u.ph = .start ∧ u.bitTo = false) ∨
    ((s.ph = .bitw1 ∨ s.ph = .bitw2) ∧ Claims.TimesOut s ∧ u.bitTo = true) := by
  cases hm
  case accepted hph _ _ _ => exact .inl ⟨hph, rfl, rfl⟩
  case timedOut v f p hw _ hl hb hc =>
    have hout : Claims.TimesOut s := ⟨v, hw.awaited_eq, hl, hb, hc⟩
    cases f with
    | ackTo => simp at hne
    | bitTo => exact .inr ⟨hw.ph_of_bitTo, hout, rfl⟩
  all_goals simp at hne

/-- `ph`: the strict order and the loop of the capture (R16). -/
theorem follows_ph (hm : PhaseMove s u) : follows s u.ph := by
  cases hm
  case ignored | counted | missed | stayed => exact .inl rfl
  case observed hw _ _ => exact hw.follows
  case timedOut hw _ _ _ _ => exact hw.follows
  case sampledLast hph _ _ hi => exact .inr (by simp [hph, hi])
  case sampledMore hph _ _ hi => exact .inr (by simp [hph, hi])
  all_goals exact .inr (by simp [*])

end PhaseMove

/-- Settles O21: a reset writes every element (R92), and without it each element has the one writer its row names. -/
theorem writeOwnership : Obligations.WriteOwnership := by
  intro s t hst
  refine ⟨fun hr => ?_, fun hr => ?_⟩
  · obtain ⟨-, rfl⟩ | ⟨hr', -⟩ := step_moves hst
    · rfl
    · exact absurd (hr.symm.trans hr') (by decide)
  · obtain ⟨u, hm, rfl⟩ := step_moves_of_rst hr hst
    exact ⟨hm.lastPair_writer, hm.fb_writer, hm.operands_writer, hm.cnt_of_ph_ne, hm.cnt_of_ph_eq, hm.bitidx_writer,
      hm.oeLow_writer, hm.result_writer, hm.busy_writer, hm.done_eq, hm.fresh_writer, hm.ackTo_writer, hm.bitTo_writer⟩

/-- Settles O22: every move follows the order. -/
theorem phasesInOrder : Obligations.PhasesInOrder := by
  intro s t hr hst
  obtain ⟨u, hm, rfl⟩ := step_moves_of_rst hr hst
  exact hm.follows_ph

/-- Settles O23: a reset clears DONE even in FINISH, and of the moves only the end of the call sets it. -/
theorem doneExactlyAfterFinish : Obligations.DoneExactlyAfterFinish := by
  intro s t hst
  obtain ⟨hr, rfl⟩ | ⟨hr, u, hm, rfl⟩ := step_moves hst
  · have hr0 : (s.hostAt 0).rst = true := hr
    simp [hr0]
  · have hr0 : (s.hostAt 0).rst = false := hr
    simp [hr0, hm.done_eq]

/-- A move keeps BUSY equal to "not in IDLE" (R21). -/
theorem PhaseMove.busy_iff {s u : State} (hm : PhaseMove s u) (h : s.busy = true ↔ s.ph ≠ .idle) :
    u.busy = true ↔ u.ph ≠ .idle := by
  cases hm
  case observed hw _ _ => simp [h, hw.ne_idle, hw.next_ne_idle]
  case timedOut hw _ _ _ _ => simp [h, hw.ne_idle, hw.next_ne_idle]
  all_goals simp [*]

/-- Settles O24: reset clears BUSY and enters IDLE; a move changes BUSY exactly when it enters or leaves IDLE. -/
theorem busyTracksPhase : Obligations.BusyTracksPhase := by
  refine ⟨by decide, fun s t h hst => ?_⟩
  obtain ⟨-, rfl⟩ | ⟨-, u, hm, rfl⟩ := step_moves hst
  · simp
  · exact hm.busy_iff h

/-! # Acceptance and the host port (R29, R49, R58) -/

section
variable {s : State} {q : Quantity} {pin : PinNo}

/-- R58: the idle block accepts the read it is presented. -/
theorem phaseStep_of_accepts (h : Accepts s q pin) : phaseStep s = .next (accept q pin (clearDone s)) := by
  obtain ⟨hidle, hvalid, hword, hline⟩ := h
  simp [phaseStep, hidle, execPhIdle, hvalid, hword, hline]

/-- The whole acceptance step. -/
theorem step_of_accepts (h : Accepts s q pin) (hr : (s.hostAt 0).rst = false) :
    step s = .next (advance (accept q pin (clearDone s))) :=
  step_of_runFetched hr ((runFetched_eq_phaseStep s).trans (phaseStep_of_accepts h))

/-- R29: the write of a read command's word to CMD in IDLE presents that command. -/
theorem accepts_hostWrite (hidle : s.ph = .idle) (hline : pin.toNat < s.cfg.nPins) :
    Accepts (hostWrite .cmd (commandWord pin q.code) s) q pin := ⟨hidle, rfl, rfl, hline⟩

end

/-- The status word as a number (R49). -/
theorem statusWord_toNat (s : State) :
    (statusWord s).toNat = s.busy.toNat + 2 * s.fresh.toNat + 4 * s.ackTo.toNat + 8 * s.bitTo.toNat := by
  unfold statusWord
  cases s.busy <;> cases s.fresh <;> cases s.ackTo <;> cases s.bitTo <;> rfl

/-- Settles O53: each register reads its element, the status word by its bits, and the tag is a case split on the flags. -/
theorem hostRegisterReads : Obligations.HostRegisterReads := by
  refine ⟨rfl, rfl, rfl, rfl, rfl, fun s => ⟨fun hb => ?_, rfl, ?_, rfl, ?_, ?_⟩⟩
  · unfold tag
    cases s.fresh <;> cases s.ackTo <;> simp [hb]
  · exact (BitVec.toNat_setWidth_of_le (by decide)).trans (statusWord_toNat s)
  · exact BitVec.toNat_setWidth_of_le (by decide)
  · exact BitVec.toNat_setWidth_of_le (by decide)

/-- Settles O54: the written word is the presented command, which the idle block accepts; the other four registers are read
only. -/
theorem hostWritePresentsCommand : Obligations.HostWritePresentsCommand := by
  refine ⟨fun s q pin hidle hr hline => ?_, fun s v => ⟨rfl, rfl, rfl, rfl⟩⟩
  exact step_of_accepts (accepts_hostWrite hidle hline) hr

/-! # The schedule of a call (R97, R98)

From the acceptance step on, a call in a bounded build is where R98's recurrence says it is: `Scheduled` ties the phase and
the count of every state of the call to the number of steps since the acceptance. -/

/-! ## When a wait ends -/

/-- Failed samples move the search for a level on. -/
theorem firstAt_add {L : Nat → Level} {v : Level} {n e : Nat} (hmiss : ∀ i, i < n → L (e + i) ≠ v) (k : Nat) :
    firstAt L v (n + k) e = firstAt L v k (e + n) := by
  induction n generalizing e with
  | zero => simp
  | succ n ih =>
    have hhead : L e ≠ v := hmiss 0 (by omega)
    have htail : ∀ i, i < n → L (e + 1 + i) ≠ v := fun i hi => by
      rw [Nat.add_right_comm]; exact hmiss (i + 1) (by omega)
    rw [Nat.add_right_comm n 1 k, firstAt, if_neg hhead, ih htail]
    congr 1; omega

/-- A wait ends at the sample that shows the level, or at the last one it takes (R61, R98). -/
theorem waitEnd_eq {c : Config} {L : Nat → Level} {v : Level} {e n : Nat} (hn : n < c.tTimeout)
    (hmiss : ∀ i, i < n → L (e + i) ≠ v) (hend : L (e + n) = v ∨ n + 1 = c.tTimeout) : waitEnd c L v e = e + n := by
  obtain ⟨k, hk⟩ : ∃ k, c.tTimeout = n + (k + 1) := ⟨c.tTimeout - n - 1, by omega⟩
  unfold waitEnd
  rw [hk, firstAt_add hmiss, firstAt]
  by_cases hl : L (e + n) = v
  · simp [hl]
  · have hlast := hend.resolve_left hl
    obtain rfl : k = 0 := by omega
    simp [hl, firstAt]

/-! ## Where the call is -/

/-- The step, counted from the acceptance, at which a phase of the call begins; in the capture loop that of bit `i` (R98). -/
def phaseBegin (c : Config) (L : Nat → Level) (i : Nat) : Phase → Nat
  | .idle => 0
  | .start => 1
  | .settle => c.tStart + 1
  | .ack1 => ack1Start c 0
  | .ack2 => ack1End c L 0 + 1
  | .bitw1 => bitStart c L 0 i
  | .bitw2 => bitHigh c L 0 i + 1
  | .bitdly => bitFall c L 0 i + 1
  | .finish => bitSample c L 0 i + 1

/-- A phase of the call after a wait begins at the step after the wait's end. -/
theorem IsWait.phaseBegin_next {c : Config} {p p' : Phase} {v : Level} {f : TimeoutFlag} {i : Nat} (L : Nat → Level)
    (h : IsWait c p v f p') (hi : beforeLoop p = true → i = 0) :
    phaseBegin c L i p' = waitEnd c L v (phaseBegin c L i p) + 1 := by
  cases h
  case ack2 => rw [hi rfl]; rfl
  all_goals rfl

/-- `t` is the state of a call on line `pin`, `k` steps after the acceptance, with the line as `L` shows it. -/
structure Scheduled (c : Config) (L : Nat → Level) (pin : PinNo) (k : Nat) (t : State) : Prop where
  in_call : t.ph ≠ .idle
  pin_eq : t.pin = pin
  released : t.ph ≠ .start → lineBit t.oeLow pin = false
  bitidx_le : t.bitidx.toNat ≤ 39
  bitidx_zero : beforeLoop t.ph = true → t.bitidx = 0#6
  bitidx_last : t.ph = .finish → t.bitidx = 39#6
  cnt_lt : t.cnt < cntBound c t.ph
  on_time : k = phaseBegin c L t.bitidx.toNat t.ph + t.cnt
  missed : ∀ v, awaited c t.ph = some v → ∀ i, i < t.cnt → L (phaseBegin c L t.bitidx.toNat t.ph + i) ≠ v

namespace Scheduled

variable {c : Config} {L : Nat → Level} {pin : PinNo} {k : Nat} {t u : State}

/-- FINISH executes at the step R98 gives. -/
theorem at_finish (h : Scheduled c L pin k t) (hph : t.ph = .finish) : k = finishAt c L 0 := by
  have hcnt : t.cnt = 0 := by simpa [hph, cntBound] using h.cnt_lt
  have htime := h.on_time
  rw [hcnt, hph, h.bitidx_last hph] at htime
  exact htime

/-- A wait of the call that is over now is over when R98 says. -/
theorem waitEnd_now {v : Level} {f : TimeoutFlag} {p : Phase} (h : Scheduled c L pin k t) (hw : IsWait c t.ph v f p)
    (hb : c.bounded = true) (hend : L k = v ∨ c.tTimeout ≤ t.cnt + 1) :
    waitEnd c L v (phaseBegin c L t.bitidx.toNat t.ph) = k := by
  have hlt : t.cnt < c.tTimeout := by simpa [hw.cntBound_eq, hb] using h.cnt_lt
  have htime := h.on_time
  rw [waitEnd_eq hlt (h.missed v hw.awaited_eq) (hend.imp (htime ▸ ·) (by omega)), ← htime]

/-- The acceptance begins the start pulse. -/
theorem of_accept (hc : c.Legal) (q : Quantity) (pin : PinNo) (s : State) : Scheduled c L pin 1 (accept q pin s) where
  in_call := by simp
  pin_eq := rfl
  released := fun e => by simp at e
  bitidx_le := by simp
  bitidx_zero := fun _ => rfl
  bitidx_last := fun e => by simp at e
  cnt_lt := (cntBound_legal hc .start).1
  on_time := rfl
  missed := fun v e => by simp [awaited] at e

/-- A new phase of the call, begun on time. -/
theorem enter {p : Phase} (h : Scheduled c L pin k t) (hc : c.Legal) (hp : p ≠ .idle) (hrel : lineBit t.oeLow pin = false)
    (hzero : beforeLoop p = true → beforeLoop t.ph = true) (hlast : p = .finish → t.bitidx = 39#6)
    (htime : k + 1 = phaseBegin c L t.bitidx.toNat p) : Scheduled c L pin (k + 1) (enterPhase p t) where
  in_call := hp
  pin_eq := h.pin_eq
  released := fun _ => hrel
  bitidx_le := h.bitidx_le
  bitidx_zero := fun e => h.bitidx_zero (hzero e)
  bitidx_last := hlast
  cnt_lt := (cntBound_legal hc p).1
  on_time := htime
  missed := fun _ _ i hi => absurd hi (Nat.not_lt_zero i)

/-- Elements the schedule does not speak of may differ. -/
theorem congr (h : Scheduled c L pin k t) (hph : u.ph = t.ph) (hcnt : u.cnt = t.cnt) (hbit : u.bitidx = t.bitidx)
    (hpin : u.pin = t.pin) (hrel : u.ph ≠ .start → lineBit u.oeLow pin = false) : Scheduled c L pin k u := by
  obtain ⟨hcall, hp, -, hle, hzero, hlast, hlt, htime, hmiss⟩ := h
  refine ⟨?_, ?_, hrel, ?_, ?_, ?_, ?_, ?_, ?_⟩ <;> simpa only [hph, hcnt, hbit, hpin]

theorem advance (h : Scheduled c L pin k t) : Scheduled c L pin k (advance t) := h.congr rfl rfl rfl rfl h.released

/-- One more step in a phase of the call. -/
theorem count (h : Scheduled c L pin k t) (hc : c.Legal) (hcfg : t.cfg = c) (hlt : t.cnt + 1 < cntBound c t.ph)
    (hmiss : ∀ v, awaited c t.ph = some v → L k ≠ v) : Scheduled c L pin (k + 1) (countUp t) := by
  subst hcfg
  have hcnt : (countUp t).cnt = t.cnt + 1 := countUp_cnt_of_lt (hlt.trans_le (cntBound_legal hc t.ph).2)
  refine ⟨h.in_call, h.pin_eq, h.released, h.bitidx_le, h.bitidx_zero, h.bitidx_last, hcnt ▸ hlt,
    by rw [hcnt, h.on_time]; rfl, fun v hv i hi => ?_⟩
  obtain hi | rfl : i < t.cnt ∨ i = t.cnt := by omega
  · exact h.missed v hv i hi
  · exact h.on_time ▸ hmiss v hv

/-- The end of a wait, seen or timed out. -/
theorem leaveWait {v : Level} {f : TimeoutFlag} {p : Phase} (h : Scheduled c L pin k t) (hc : c.Legal)
    (hb : c.bounded = true) (hw : IsWait c t.ph v f p) (hend : L k = v ∨ c.tTimeout ≤ t.cnt + 1) :
    Scheduled c L pin (k + 1) (enterPhase p t) := by
  have hzero : beforeLoop t.ph = true → t.bitidx.toNat = 0 := fun e => by rw [h.bitidx_zero e]; rfl
  have htime : k + 1 = phaseBegin c L t.bitidx.toNat p := by
    rw [hw.phaseBegin_next L hzero, h.waitEnd_now hw hb hend]
  exact h.enter hc hw.next_ne_idle (h.released hw.ne_start) hw.beforeLoop_of_next (fun e => absurd e hw.next_ne_finish)
    htime

/-- The sample of a bit before bit 39 begins the next bit. -/
theorem nextBit (h : Scheduled c L pin k t) (hc : c.Legal) (hph : t.ph = .bitdly) (hend : t.cnt + 1 = c.tSample)
    (hi : t.bitidx.toNat < 39) (fb : FrameBuffer) :
    Scheduled c L pin (k + 1) (enterPhase .bitw1 { t with fb := fb, bitidx := t.bitidx + 1#6 }) where
  in_call := by simp
  pin_eq := h.pin_eq
  released := fun _ => h.released (by simp [hph])
  bitidx_le := by simp only [enterPhase_bitidx, toNat_bitidx_succ hi]; omega
  bitidx_zero := fun e => by simp [beforeLoop] at e
  bitidx_last := fun e => by simp at e
  cnt_lt := (cntBound_legal hc .bitw1).1
  on_time := by
    have htime := h.on_time
    simp only [hph, phaseBegin] at htime
    simp only [enterPhase_bitidx, enterPhase_ph, enterPhase_cnt, toNat_bitidx_succ hi, phaseBegin]
    have hbegin : bitStart c L 0 (t.bitidx.toNat + 1) = bitFall c L 0 t.bitidx.toNat + c.tSample + 1 := rfl
    omega
  missed := fun _ _ i hi => absurd hi (Nat.not_lt_zero i)

/-- Each move of a call before FINISH keeps it on schedule. -/
theorem move (h : Scheduled t.cfg L pin k t) (hc : t.cfg.Legal) (hb : t.cfg.bounded = true) (hL : t.sensAt 0 pin = L k)
    (hf : t.ph ≠ .finish) (hm : PhaseMove t u) : Scheduled t.cfg L pin (k + 1) u := by
  have hclear : Scheduled t.cfg L pin k (clearDone t) := h.congr rfl rfl rfl rfl h.released
  have hline (hns : t.ph ≠ .start) : lineRead t.pin t = L k := by
    simp [lineRead_eq, h.pin_eq, h.released hns, hL]
  have htime := h.on_time
  have hlt := h.cnt_lt
  cases hm with
  | ignored hph _ => exact absurd hph h.in_call
  | accepted q hph _ _ _ => exact absurd hph h.in_call
  | released hph hend hpin =>
    have hrel : lineBit (lineDrive t.pin false (clearDone t)).oeLow pin = false := by simp [lineBit_set, h.pin_eq]
    have hdrive : Scheduled t.cfg L pin k (lineDrive t.pin false (clearDone t)) := h.congr rfl rfl rfl rfl fun _ => hrel
    refine hdrive.enter hc (by decide) hrel (by simp [hph, beforeLoop]) (by simp) ?_
    simp only [hph, phaseBegin] at htime ⊢
    omega
  | settled hph hend =>
    refine hclear.enter hc (by decide) (h.released (by simp [hph])) (by simp [hph, beforeLoop]) (by simp) ?_
    simp only [hph, phaseBegin, ack1Start] at htime ⊢
    omega
  | counted hph hend =>
    refine hclear.count hc rfl (by simp only [clearDone_cnt, clearDone_ph]; omega) fun v hv => ?_
    rcases hph with e | e | e <;> simp [e, awaited] at hv
  | observed hw hpin hl => exact hclear.leaveWait hc hb hw (.inl ((hline hw.ne_start).symm.trans hl))
  | @timedOut v f p hw hpin hl hb hend =>
    have hraise : Scheduled t.cfg L pin k (raiseFlag f (clearDone t)) :=
      hclear.congr (by simp) (by simp) (by simp) (by simp) (by simpa using h.released)
    exact hraise.leaveWait hc hb (by simpa using hw) (.inr (by simpa using hend))
  | @missed v f p hw hpin hl hb hend =>
    refine hclear.count hc rfl (by simp [hw.cntBound_eq, hb, hend]) fun v' hv' => ?_
    obtain rfl : v = v' := by simpa [hw.awaited_eq] using hv'
    exact hline hw.ne_start ▸ hl
  | stayed hw hpin hl hu => exact absurd (hb.symm.trans hu) (by decide)
  | sampledLast hph hend hpin hi =>
    have hstore : Scheduled t.cfg L pin k (storeSample (clearDone t)) := hclear.congr rfl rfl rfl rfl h.released
    have hbegin : phaseBegin t.cfg L t.bitidx.toNat .finish = bitFall t.cfg L 0 t.bitidx.toNat + t.cfg.tSample + 1 := rfl
    simp only [hph, phaseBegin] at htime
    exact hstore.enter hc (by decide) (h.released (by simp [hph])) (by simp [beforeLoop]) (fun _ => hi)
      ((by omega : k + 1 = _).trans hbegin.symm)
  | sampledMore hph hend hpin hi => exact hclear.nextBit hc hph hend hi _
  | finished hph => exact absurd hph hf

end Scheduled

/-! ## The states of a call -/

section
variable {s t u : State} {q : Quantity} {pin : PinNo}

/-- With a line to read and a cell to store in, the rule of every phase goes on (R32, R80). -/
theorem phaseStep_goes_on (hpin : s.pin.toNat < s.cfg.nPins) (hi : s.bitidx.toNat < 40) : ∃ u, phaseStep s = .next u := by
  unfold phaseStep
  cases s.ph with
  | idle =>
    simp only [execPhIdle]
    cases quantityOf (qField s.hostNow.cmdWord) with
    | none => exact ⟨_, rfl⟩
    | some q => dsimp only; split <;> exact ⟨_, rfl⟩
  | start =>
    simp only [execPhStart, requireLine_of_lt hpin]
    split <;> exact ⟨_, rfl⟩
  | settle =>
    simp only [execPhSettle]
    split <;> exact ⟨_, rfl⟩
  | ack1 | ack2 | bitw1 | bitw2 => exact ⟨_, requireLine_of_lt hpin⟩
  | bitdly =>
    simp only [execPhBitdly, requireLine_of_lt hpin, requireCell_of_lt hi]
    split <;> exact ⟨_, rfl⟩
  | finish => exact ⟨_, rfl⟩

/-- So does the step without reset, with a move of its phase. -/
theorem step_goes_on (hr : (s.hostAt 0).rst = false) (hpin : s.pin.toNat < s.cfg.nPins) (hi : s.bitidx.toNat < 40) :
    ∃ u, PhaseMove s u ∧ step s = .next (advance u) := by
  obtain ⟨u, hu⟩ := phaseStep_goes_on hpin hi
  exact ⟨u, .of_phaseStep hu, step_of_runFetched hr ((runFetched_eq_phaseStep s).trans hu)⟩

/-- A run with one more step at its end. -/
theorem runs_snoc {k : Nat} (h : Runs k s t) (hst : step t = .next u) : Runs (k + 1) s u :=
  runs_add h ((runs_succ 0 t u).mpr ⟨u, hst, (runs_zero u u).mpr rfl⟩)

/-- A run of `k` steps keeps the build parameters and moves the inputs on by `k`. -/
theorem runs_inputs {k : Nat} (h : Runs k s t) :
    t.cfg = s.cfg ∧ (∀ j, t.hostAt j = s.hostAt (k + j)) ∧ ∀ j p, t.sensAt j p = s.sensAt (k + j) p := by
  induction k generalizing s with
  | zero =>
    obtain rfl := (runs_zero s t).mp h
    simp
  | succ k ih =>
    obtain ⟨w, hst, hw⟩ := (runs_succ k s t).mp h
    obtain ⟨hcfg, hhost, hsens⟩ := stepTakesNextInputs s w hst
    obtain ⟨hcfg', hhost', hsens'⟩ := ih hw
    refine ⟨hcfg'.trans hcfg, fun j => ?_, fun j p => ?_⟩
    · rw [hhost', hhost, Nat.add_right_comm]
    · rw [hsens', hsens, Nat.add_right_comm]

/-- `t` shows the host a call in progress that began with the outputs of `s` (R20 to R22, R30). -/
structure OutputsHeld (s t : State) : Prop where
  busy : t.busy = true
  done : t.done = false
  result : t.result = s.result
  lastH : t.lastH = s.lastH
  lastT : t.lastT = s.lastT

theorem OutputsHeld.advance (h : OutputsHeld s t) : OutputsHeld s (advance t) :=
  ⟨h.busy, h.done, h.result, h.lastH, h.lastT⟩

/-- A move that neither begins nor ends a call writes none of the outputs; DONE is 0 after it (R31). -/
theorem OutputsHeld.move (h : OutputsHeld s t) (hm : PhaseMove t u) (hi : t.ph ≠ .idle) (hf : t.ph ≠ .finish) :
    OutputsHeld s u := by
  have hbusy : u.busy = t.busy := by
    by_contra hne
    obtain ⟨e, -⟩ | ⟨e, -⟩ := hm.busy_writer hne
    · exact hi e
    · exact hf e
  have hresult : u.result = t.result := by_contra fun hne => hf (hm.result_writer hne)
  have hlastH : u.lastH = t.lastH := by_contra fun hne => hf (hm.lastPair_writer (.inl hne)).1
  have hlastT : u.lastT = t.lastT := by_contra fun hne => hf (hm.lastPair_writer (.inr hne)).1
  exact ⟨hbusy.trans h.busy, by simp [hm.done_eq, hf], hresult.trans h.result, hlastH.trans h.lastH,
    hlastT.trans h.lastT⟩

/-- Every state of a call up to its FINISH step: the run reaches it, it is on schedule, and the outputs are held. -/
theorem call_state (hc : s.cfg.Legal) (hb : s.cfg.bounded = true) (ha : Accepts s q pin)
    (hr : NoReset s (finishAt s.cfg (levelFrom s pin) 0)) (k : Nat) (hk : k + 1 ≤ finishAt s.cfg (levelFrom s pin) 0) :
    ∃ t, Runs (k + 1) s t ∧ Scheduled s.cfg (levelFrom s pin) pin (k + 1) t ∧ OutputsHeld s t := by
  induction k with
  | zero =>
    have hst := step_of_accepts ha (hr 0 hk)
    exact ⟨_, runs_snoc ((runs_zero s s).mpr rfl) hst, (Scheduled.of_accept hc q pin (clearDone s)).advance,
      ⟨rfl, rfl, rfl, rfl, rfl⟩⟩
  | succ k ih =>
    obtain ⟨t, hrun, hsched, hheld⟩ := ih (by omega)
    obtain ⟨hcfg, hhost, hsens⟩ := runs_inputs hrun
    have hf : t.ph ≠ .finish := fun e => by have := hsched.at_finish e; omega
    have hr0 : (t.hostAt 0).rst = false := hhost 0 ▸ hr (k + 1) hk
    have hline : t.pin.toNat < t.cfg.nPins := by rw [hsched.pin_eq, hcfg]; exact ha.line
    obtain ⟨u, hm, hst⟩ := step_goes_on hr0 hline (Nat.lt_succ_of_le hsched.bitidx_le)
    have hnext := (hcfg ▸ hsched).move (hcfg ▸ hc) (hcfg ▸ hb) (hsens 0 pin) hf hm
    exact ⟨advance u, runs_snoc hrun hst, (hcfg ▸ hnext).advance, (hheld.move hm hsched.in_call hf).advance⟩

end

/-- Settles O42: every state of the call up to FINISH is on R98's schedule, so FINISH is not reached before its step, and
no earlier move writes an output. -/
theorem outputsHeldDuringCall : Obligations.OutputsHeldDuringCall := by
  intro s q pin hc hb ha L hr k h1 hk
  obtain ⟨j, rfl⟩ : ∃ j, k = j + 1 := ⟨k - 1, by omega⟩
  obtain ⟨t, hrun, -, hbusy, hdone, hresult, hlastH, hlastT⟩ := call_state hc hb ha hr j hk
  exact ⟨t, hrun, hbusy, hdone, hresult, hlastH, hlastT⟩

end Sys2Proof.Machine

/-! # The line and the frame in the steps (R32 to R42)

Where the model stops, that only the samples see the sensor, the order of the bits in a frame, and the pair of registers
that one frame writes. -/

namespace Sys2Proof.Machine

/-- Settles O30: `LineRead` is the AND of the two sides. -/
theorem lineLevel : Obligations.LineLevel := by
  intro s p
  rw [lineRead_eq]
  refine ⟨fun hlow => ?_, fun hlow => ?_, fun hrel hhigh => ?_⟩
  · simp [hlow]
  · simp [hlow]
  · simp [hrel, hhigh]

/-! ## The pair of the last valid frame (R42, R71) -/

/-- A move leaves the pair, or is the end of a call on a valid frame, whose sums it commits. -/
theorem PhaseMove.lastPair_cases {s u : State} (hm : PhaseMove s u) :
    (u.lastH = s.lastH ∧ u.lastT = s.lastT) ∨
    (s.ph = .finish ∧ Claims.ChecksumOk s.fb ∧
      u.lastH.toNat = 10 * frameByte s.fb 0 + frameByte s.fb 1 ∧
      u.lastT.toNat = 10 * frameByte s.fb 2 + frameByte s.fb 3) := by
  cases hm
  case finished hph =>
    cases hok : validate (frameBytes s.fb)
    · exact .inl (by simp [hok, commit_not])
    · obtain ⟨hhum, htemp⟩ := commit_ok_toNat s.fb s.lastH s.lastT
      exact .inr ⟨hph, (validate_iff s.fb).mp hok, by simpa [hok] using hhum, by simpa [hok] using htemp⟩
  all_goals exact .inl (by simp)

/-- Settles O25: the one move that writes the pair commits both sums of the frame. -/
theorem lastPairMovesTogether : Obligations.LastPairMovesTogether := by
  intro s t hr hst
  obtain ⟨u, hm, rfl⟩ := step_moves_of_rst hr hst
  exact hm.lastPair_cases

/-! ## The stops (R32, R33; log 7) -/

/-- `r` goes on, or stops because `PIN` is not a line or `bitidx` is not a cell. -/
inductive StopsOnlyAtAbsent (s : State) : Result → Prop
  | goesOn (u : State) : StopsOnlyAtAbsent s (.next u)
  | noLine (hpin : s.cfg.nPins ≤ s.pin.toNat) : StopsOnlyAtAbsent s (.fault (.noSuchLine s.pin))
  | noCell (hi : 40 ≤ s.bitidx.toNat) : StopsOnlyAtAbsent s (.fault (.noSuchCell s.bitidx))

/-- A line that does not exist stops the access. -/
theorem requireLine_of_le {p : PinNo} {s : State} {k : Result} (h : s.cfg.nPins ≤ p.toNat) :
    requireLine p s k = .fault (.noSuchLine p) := if_neg h.not_gt

/-- A cell that does not exist stops the access. -/
theorem requireCell_of_le {i : BitVec 6} {k : Result} (h : 40 ≤ i.toNat) : requireCell i k = .fault (.noSuchCell i) :=
  if_neg h.not_gt

namespace StopsOnlyAtAbsent

variable {s : State} {k r r' : Result}

theorem requireLine (h : StopsOnlyAtAbsent s k) : StopsOnlyAtAbsent s (requireLine s.pin s k) := by
  obtain hlt | hle := Nat.lt_or_ge s.pin.toNat s.cfg.nPins
  · rwa [requireLine_of_lt hlt]
  · rw [requireLine_of_le hle]; exact .noLine hle

theorem requireCell (h : StopsOnlyAtAbsent s k) : StopsOnlyAtAbsent s (requireCell s.bitidx k) := by
  obtain hlt | hle := Nat.lt_or_ge s.bitidx.toNat 40
  · rwa [requireCell_of_lt hlt]
  · rw [requireCell_of_le hle]; exact .noCell hle

theorem ite {c : Prop} [Decidable c] (h : StopsOnlyAtAbsent s r) (h' : StopsOnlyAtAbsent s r') :
    StopsOnlyAtAbsent s (if c then r else r') := by
  split
  · exact h
  · exact h'

theorem execPhIdle (s : State) : StopsOnlyAtAbsent s (execPhIdle s) := by
  simp only [Machine.execPhIdle]
  cases quantityOf (qField s.hostNow.cmdWord) with
  | none => exact .goesOn _
  | some q => exact .ite (.goesOn _) (.goesOn _)

theorem execPhStart (s : State) : StopsOnlyAtAbsent s (execPhStart s) := .ite (.requireLine (.goesOn _)) (.goesOn _)

theorem execPhSettle (s : State) : StopsOnlyAtAbsent s (execPhSettle s) := .ite (.goesOn _) (.goesOn _)

theorem execPhBitdly (s : State) : StopsOnlyAtAbsent s (execPhBitdly s) :=
  .ite (.requireLine (.requireCell (.goesOn _))) (.goesOn _)

theorem phaseStep (s : State) : StopsOnlyAtAbsent s (phaseStep s) := by
  unfold Machine.phaseStep
  cases s.ph with
  | idle => exact execPhIdle s
  | start => exact execPhStart s
  | settle => exact execPhSettle s
  | ack1 | ack2 | bitw1 | bitw2 => exact .requireLine (.goesOn _)
  | bitdly => exact execPhBitdly s
  | finish => exact .goesOn _

/-- No instruction stops for another reason, and none is refused. -/
theorem exec (i : Instr) (s : State) : StopsOnlyAtAbsent s (exec i s) := by
  cases i with
  | readTC | readTF | readRH => exact .ite (.ite (.goesOn _) (.goesOn _)) (phaseStep s)
  | reservedQ3 => exact .ite (.goesOn _) (phaseStep s)
  | phIdle => exact execPhIdle s
  | phStart => exact execPhStart s
  | phSettle => exact execPhSettle s
  | phAck1 | phAck2 | phBitw1 | phBitw2 => exact .requireLine (.goesOn _)
  | phBitdly => exact execPhBitdly s
  | phFinish => exact .goesOn _

end StopsOnlyAtAbsent

/-- Settles O20: the accesses to an absent line or cell fault where they stand, and every instruction is built from them
and from operations that go on. -/
theorem absentLineOrCellStops : Obligations.AbsentLineOrCellStops := by
  refine ⟨fun s hpin => ?_, fun s hpin hc hi => ?_, fun i s r h => ?_, fun i s r h => ?_⟩
  · have hline {k : Result} : requireLine s.pin s k = .fault (.noSuchLine s.pin) := requireLine_of_le hpin
    exact ⟨hline, hline, hline, hline, fun hc => (if_pos hc).trans hline, fun hc => (if_pos hc).trans hline⟩
  · calc exec .phBitdly s
      _ = requireLine s.pin s (requireCell s.bitidx (.next (nextBit (storeSample (clearDone s))))) := if_pos hc
      _ = .fault (.noSuchCell s.bitidx) := by rw [requireLine_of_lt hpin, requireCell_of_le hi]
  · have hstop := h ▸ StopsOnlyAtAbsent.exec i s
    cases hstop with
    | noLine hpin => exact .inl ⟨hpin, rfl⟩
    | noCell hi => exact .inr ⟨hi, rfl⟩
  · have hstop := h ▸ StopsOnlyAtAbsent.exec i s
    cases hstop

/-! ## What a step sees of the sensor (R40) -/

/-- `s` with the sensor side `v` at this step and `rest` at the following ones. -/
def State.sensed (s : State) (v : Lines) (rest : List Lines) : State := { s with sens := v :: rest }

section
variable {s : State} {v v' : Lines} {rest : List Lines}

theorem hostNow_sensed : (s.sensed v rest).hostNow = s.hostNow := hostAt_congr rfl rfl 0

/-- Two sensor sides that agree on line `PIN` show the phase rule the same level there (R38). -/
theorem lineRead_sensed_congr (h : lineBit v s.pin = lineBit v' s.pin) :
    lineRead s.pin (clearDone (s.sensed v rest)) = lineRead s.pin (clearDone (s.sensed v' rest)) := by
  have hand (x : Lines) : lineRead s.pin (clearDone (s.sensed x rest)) = (!lineBit s.oeLow s.pin && lineBit x s.pin) :=
    lineRead_eq s.pin (clearDone (s.sensed x rest))
  rw [hand, hand, h]

/-- Whether a line or a cell exists does not depend on the sensor side. -/
theorem advanceOutcome_requireLine_sensed (p : PinNo) (k : Result) :
    advanceOutcome (requireLine p (s.sensed v rest) k) = requireLine p s (advanceOutcome k) :=
  apply_ite advanceOutcome _ _ _

theorem advanceOutcome_of_next (u : State) : advanceOutcome (.next u) = .next (advance u) := rfl

theorem advanceOutcome_requireCell (i : BitVec 6) (k : Result) :
    advanceOutcome (requireCell i k) = requireCell i (advanceOutcome k) := apply_ite advanceOutcome _ _ _

/-- IDLE does not sample (R58). -/
theorem execPhIdle_sensed :
    advanceOutcome (execPhIdle (s.sensed v rest)) = advanceOutcome (execPhIdle (s.sensed v' rest)) := by
  simp only [execPhIdle, hostNow_sensed]
  cases quantityOf (qField s.hostNow.cmdWord) with
  | none => rfl
  | some q => simp only [apply_ite advanceOutcome]; rfl

/-- START does not sample (R59). -/
theorem execPhStart_sensed :
    advanceOutcome (execPhStart (s.sensed v rest)) = advanceOutcome (execPhStart (s.sensed v' rest)) := by
  simp only [execPhStart, requireLine, apply_ite advanceOutcome]; rfl

/-- SETTLE does not sample (R60). -/
theorem execPhSettle_sensed :
    advanceOutcome (execPhSettle (s.sensed v rest)) = advanceOutcome (execPhSettle (s.sensed v' rest)) := by
  simp only [execPhSettle, apply_ite advanceOutcome]; rfl

/-- BITDLY does not sample before its last step (R67). -/
theorem execPhBitdly_sensed_of_ne (hc : s.cnt + 1 ≠ s.cfg.tSample) :
    advanceOutcome (execPhBitdly (s.sensed v rest)) = advanceOutcome (execPhBitdly (s.sensed v' rest)) := by
  have hcount (x : Lines) : execPhBitdly (s.sensed x rest) = .next (countUp (clearDone (s.sensed x rest))) := if_neg hc
  rw [hcount, hcount]; rfl

/-- The sample and the loop control see line `PIN` only (R67). -/
theorem sample_sensed (h : lineBit v s.pin = lineBit v' s.pin) :
    advance (nextBit (storeSample (clearDone (s.sensed v rest)))) =
    advance (nextBit (storeSample (clearDone (s.sensed v' rest)))) := by
  have hline := lineRead_sensed_congr (rest := rest) h
  have hstore (x : Lines) : storeSample (clearDone (s.sensed x rest)) =
      { clearDone (s.sensed x rest) with
        fb := s.fb.setIfInBounds s.bitidx.toNat (lineRead s.pin (clearDone (s.sensed x rest))) } := rfl
  simp only [nextBit, apply_ite advance, hstore, hline]
  rfl

/-- The last step of BITDLY sees line `PIN` only (R67). -/
theorem execPhBitdly_sensed (h : lineBit v s.pin = lineBit v' s.pin) :
    advanceOutcome (execPhBitdly (s.sensed v rest)) = advanceOutcome (execPhBitdly (s.sensed v' rest)) := by
  simp only [execPhBitdly, apply_ite advanceOutcome, advanceOutcome_requireLine_sensed, advanceOutcome_requireCell,
    advanceOutcome_of_next, sample_sensed h]
  rfl

/-- A wait sees line `PIN` only (R61). -/
theorem waitLevel_sensed (h : lineBit v s.pin = lineBit v' s.pin) (l : Level) (f : TimeoutFlag) (p : Phase) :
    advance (waitLevel l f p (clearDone (s.sensed v rest))) =
    advance (waitLevel l f p (clearDone (s.sensed v' rest))) := by
  have hpin (x : Lines) : (clearDone (s.sensed x rest)).pin = s.pin := rfl
  simp only [waitLevel, apply_ite advance, hpin, lineRead_sensed_congr h]
  cases f <;> rfl

/-- The whole step of a wait phase. -/
theorem waitStep_sensed (h : lineBit v s.pin = lineBit v' s.pin) (l : Level) (f : TimeoutFlag) (p : Phase) :
    advanceOutcome (requireLine s.pin (s.sensed v rest) (.next (waitLevel l f p (clearDone (s.sensed v rest))))) =
    advanceOutcome (requireLine s.pin (s.sensed v' rest) (.next (waitLevel l f p (clearDone (s.sensed v' rest))))) := by
  simp only [advanceOutcome_requireLine_sensed, advanceOutcome_of_next, waitLevel_sensed h]

/-- The rule of the phase sees the sensor in its sampling steps only, and there only on line `PIN`. -/
theorem phaseStep_sensed
    (h : s.ph = .idle ∨ s.ph = .start ∨ s.ph = .settle ∨ s.ph = .finish ∨ (s.ph = .bitdly ∧ s.cnt + 1 ≠ s.cfg.tSample) ∨
      lineBit v s.pin = lineBit v' s.pin) :
    advanceOutcome (phaseStep (s.sensed v rest)) = advanceOutcome (phaseStep (s.sensed v' rest)) := by
  have hph (x : Lines) : (s.sensed x rest).ph = s.ph := rfl
  simp only [phaseStep, hph]
  cases e : s.ph with
  | idle => exact execPhIdle_sensed
  | start => exact execPhStart_sensed
  | settle => exact execPhSettle_sensed
  | ack1 | ack2 | bitw1 | bitw2 =>
    have hline : lineBit v s.pin = lineBit v' s.pin := by simpa [e] using h
    exact waitStep_sensed hline _ _ _
  | bitdly =>
    obtain hc | hline : s.cnt + 1 ≠ s.cfg.tSample ∨ lineBit v s.pin = lineBit v' s.pin := by simpa [e] using h
    · exact execPhBitdly_sensed_of_ne hc
    · exact execPhBitdly_sensed hline
  | finish => rfl

end

/-- Settles O31: a reset step and the step's own moving on drop the sensor side, and the rule of the phase sees it in its
sampling steps only. -/
theorem sensorSeenOnlyWhenSampled : Obligations.SensorSeenOnlyWhenSampled := by
  intro s v v' rest h
  change step (s.sensed v rest) = step (s.sensed v' rest)
  simp only [step, hostNow_sensed, runFetched_eq_phaseStep, phaseStep_sensed h]
  rfl

/-! ## The order of the bits in a frame (R34) -/

/-- The first `n` bits of `b` as a binary number, `b 0` most significant. -/
def readBits (b : Nat → Bool) : Nat → Nat
  | 0 => 0
  | n + 1 => Nat.bit (b n) (readBits b n)

theorem readBits_succ (b : Nat → Bool) (n : Nat) : readBits b (n + 1) = 2 * readBits b n + (b n).toNat :=
  Nat.bit_val _ _

/-- The number is read by doubling and adding, bit after bit. -/
theorem readBits_eq_foldl (b : Nat → Bool) (n : Nat) :
    readBits b n = (List.range n).foldl (fun m i => 2 * m + (b i).toNat) 0 := by
  induction n with
  | zero => rfl
  | succ n ih => simp [readBits_succ, List.range_succ, ih]

/-- Reading on by `n` bits shifts the number read so far. -/
theorem readBits_add (b : Nat → Bool) (m n : Nat) :
    readBits b (m + n) = readBits b m * 2 ^ n + readBits (fun j => b (m + j)) n := by
  induction n with
  | zero => simp [readBits]
  | succ n ih =>
    rw [← Nat.add_assoc, readBits_succ, readBits_succ, ih, Nat.pow_succ]
    ring

/-- Bit `n-1-j` of the number is the `j`-th bit read. -/
theorem testBit_readBits (b : Nat → Bool) {n j : Nat} (hj : j < n) : (readBits b n).testBit (n - 1 - j) = b j := by
  induction n with
  | zero => omega
  | succ n ih =>
    obtain rfl | hlt : j = n ∨ j < n := by omega
    · simp [readBits]
    · obtain ⟨m, hm, hm'⟩ : ∃ m, n + 1 - 1 - j = m + 1 ∧ n - 1 - j = m := ⟨n - 1 - j, by omega, rfl⟩
      rw [hm, readBits, Nat.testBit_bit_succ, ← hm', ih hlt]

/-- A byte of the frame is its eight cells, read in order (R13). -/
theorem frameByte_eq_readBits (fb : FrameBuffer) (k : Nat) :
    frameByte fb k = readBits (fun j => cell fb (8 * k + j)) 8 := by
  simp only [readBits, Nat.bit_val, frameByte, cellBit, Nat.add_zero]
  omega

/-- The next eight cells append the next byte. -/
theorem readBits_cell_byte (fb : FrameBuffer) (k : Nat) :
    readBits (cell fb) (8 * k + 8) = readBits (cell fb) (8 * k) * 2 ^ 8 + frameByte fb k := by
  rw [readBits_add, ← frameByte_eq_readBits]

/-- Settles O33: a byte is its cells read in order, and five times eight cells read on append the five bytes. -/
theorem frameBitOrder : Obligations.FrameBitOrder := by
  refine fun fb => ⟨fun k j _ hj => ?_, frameByte_lt fb, ?_⟩
  · rw [frameByte_eq_readBits]
    exact testBit_readBits _ hj
  · have hread : readBits (cell fb) 40 = (List.range 40).foldl (fun n i => 2 * n + cellBit fb i) 0 :=
      readBits_eq_foldl (cell fb) 40
    have h0 := readBits_cell_byte fb 0
    have h1 := readBits_cell_byte fb 1
    have h2 := readBits_cell_byte fb 2
    have h3 := readBits_cell_byte fb 3
    have h4 := readBits_cell_byte fb 4
    simp only [Nat.reduceMul, Nat.reduceAdd, readBits.eq_1] at h0 h1 h2 h3 h4
    omega

end Sys2Proof.Machine

/-! # The encoding (R44 to R46, R49)

The table has three kinds of row: the reads, the reserved row and the phases. Each kind has one equation for the encoder, one
for the decoder and one for the operand check; every instruction and every command word is of one of the kinds. -/

namespace Sys2Proof.Machine

/-! ## The fields of a command word (R44) -/

/-- A command word is the concatenation of its two fields. -/
theorem commandWord_fields (w : CmdWord) : commandWord (pinField w) (qField w) = w := by
  unfold commandWord pinField qField
  rw [BitVec.extractLsb'_append_extractLsb'_eq_extractLsb' (by decide)]
  exact BitVec.extractLsb'_eq_self

/-- R45 writes the word as `(pin << 2) | q`: as a number it is `4 * pin + q`. -/
theorem commandWord_toNat (pin : PinNo) (q : BitVec 2) : (commandWord pin q).toNat = 4 * pin.toNat + q.toNat := by
  unfold commandWord
  rw [BitVec.toNat_append, ← Nat.shiftLeft_add_eq_or_of_lt q.isLt, Nat.shiftLeft_eq, Nat.mul_comm]

@[simp] theorem commandWord_toNat_mod (pin : PinNo) (q : BitVec 2) : (commandWord pin q).toNat % 4 = q.toNat := by
  have hq : q.toNat < 4 := q.isLt
  rw [commandWord_toNat]
  omega

@[simp] theorem commandWord_toNat_div (pin : PinNo) (q : BitVec 2) : (commandWord pin q).toNat / 4 = pin.toNat := by
  have hq : q.toNat < 4 := q.isLt
  rw [commandWord_toNat]
  omega

/-! ## The codes (R45, R49) -/

/-- A 2-bit code is the reserved code or the code of a quantity. -/
theorem quantityCode_cases (x : BitVec 2) : x = 3#2 ∨ ∃ q : Quantity, x = q.code := by
  by_cases h0 : x = 0#2
  · exact .inr ⟨.celsius, h0⟩
  by_cases h1 : x = 1#2
  · exact .inr ⟨.fahrenheit, h1⟩
  by_cases h2 : x = 2#2
  · exact .inr ⟨.humidity, h2⟩
  · exact .inl (by bv_omega)

/-- Every command word is the reserved row's or a read's, on the pin it names. -/
theorem commandWord_cases (w : CmdWord) :
    (∃ pin, w = commandWord pin 3#2) ∨ ∃ (q : Quantity) (pin : PinNo), w = commandWord pin q.code := by
  obtain h | ⟨q, h⟩ := quantityCode_cases (qField w)
  · exact .inl ⟨pinField w, by rw [← h, commandWord_fields]⟩
  · exact .inr ⟨q, pinField w, by rw [← h, commandWord_fields]⟩

/-- The code of a quantity is not the reserved one (R46). -/
theorem code_toNat_ne_three (q : Quantity) : q.code.toNat ≠ 3 := by cases q <;> decide

/-- Quantities with the same code are the same (R45). -/
theorem eq_of_code_toNat {q q' : Quantity} (h : q.code.toNat = q'.code.toNat) : q = q' := by
  rw [← Option.some_inj, ← quantityOf_code q, ← quantityOf_code q', BitVec.eq_of_toNat_eq h]

/-- The only code of a phase is its own: the codes 9 to 15 name none. -/
theorem phaseOf_eq_some {w : PhaseCode} {p : Phase} (h : phaseOf w = some p) : p.code = w := by
  revert w p; decide

/-! ## The three kinds of row -/

/-- Every instruction is a read, the reserved row or a phase. -/
theorem instr_cases (i : Instr) :
    (∃ (q : Quantity) (pin : PinNo), i = q.read pin) ∨ (∃ pin, i = .reservedQ3 pin) ∨ ∃ p : Phase, i = p.instr := by
  cases i with
  | readTC pin => exact .inl ⟨.celsius, pin, rfl⟩
  | readTF pin => exact .inl ⟨.fahrenheit, pin, rfl⟩
  | readRH pin => exact .inl ⟨.humidity, pin, rfl⟩
  | reservedQ3 pin => exact .inr (.inl ⟨pin, rfl⟩)
  | phIdle => exact .inr (.inr ⟨.idle, rfl⟩)
  | phStart => exact .inr (.inr ⟨.start, rfl⟩)
  | phSettle => exact .inr (.inr ⟨.settle, rfl⟩)
  | phAck1 => exact .inr (.inr ⟨.ack1, rfl⟩)
  | phAck2 => exact .inr (.inr ⟨.ack2, rfl⟩)
  | phBitw1 => exact .inr (.inr ⟨.bitw1, rfl⟩)
  | phBitw2 => exact .inr (.inr ⟨.bitw2, rfl⟩)
  | phBitdly => exact .inr (.inr ⟨.bitdly, rfl⟩)
  | phFinish => exact .inr (.inr ⟨.finish, rfl⟩)

section
variable (c : Config) (q : Quantity) (pin : PinNo) (p : Phase)

theorem encode_read : encode (q.read pin) = .cw8 (commandWord pin q.code) := by cases q <;> rfl

theorem encode_instr : encode p.instr = .ph4 p.code := by cases p <;> rfl

/-- R44: the operand check of a read is that its pin is a line. -/
theorem read_wellFormed_iff : (q.read pin).WellFormed c ↔ pin.toNat < c.nPins := by
  cases q <;> exact decide_eq_true_iff

theorem instr_wellFormed : p.instr.WellFormed c := by cases p <;> rfl

/-- R46: the word of a read decodes to it exactly if its pin is a line. -/
theorem decode_read :
    decode c (.cw8 (commandWord pin q.code)) =
      if pin.toNat < c.nPins then .ok (q.read pin) else .error (.pinReserved pin) := by
  simp [decode, decodeCommand]

/-- R46: with `q = 3` the word is the reserved row's, whatever its pin. -/
theorem decode_reservedQ3 : decode c (.cw8 (commandWord pin 3#2)) = .ok (.reservedQ3 pin) := by
  have hq : quantityOf 3#2 = none := rfl
  simp [decode, decodeCommand, hq]

theorem decode_phaseCode : decode c (.ph4 p.code) = .ok p.instr := by simp [decode, decodePhase]

end

/-- Settles O2: the three kinds of row, each by its equation. -/
theorem decodeEncode : Obligations.DecodeEncode := by
  intro c i hwf
  obtain ⟨q, pin, rfl⟩ | ⟨pin, rfl⟩ | ⟨p, rfl⟩ := instr_cases i
  · rw [encode_read, decode_read, if_pos ((read_wellFormed_iff c q pin).mp hwf)]
  · exact decode_reservedQ3 c pin
  · rw [encode_instr, decode_phaseCode]

/-- A command word decodes only to what it encodes. -/
theorem encode_of_decode_cw8 {c : Config} {w : CmdWord} {i : Instr} (h : decode c (.cw8 w) = .ok i) :
    encode i = .cw8 w ∧ i.WellFormed c := by
  obtain ⟨pin, rfl⟩ | ⟨q, pin, rfl⟩ := commandWord_cases w
  · obtain rfl : Instr.reservedQ3 pin = i := by simpa [decode_reservedQ3] using h
    exact ⟨rfl, rfl⟩
  · rw [decode_read] at h
    split at h
    · next hpin =>
      obtain rfl : q.read pin = i := by simpa using h
      exact ⟨encode_read q pin, (read_wellFormed_iff c q pin).mpr hpin⟩
    · cases h

/-- A phase code decodes only to what it encodes. -/
theorem encode_of_decode_ph4 {c : Config} {w : PhaseCode} {i : Instr} (h : decode c (.ph4 w) = .ok i) :
    encode i = .ph4 w ∧ i.WellFormed c := by
  simp only [decode, decodePhase] at h
  split at h
  · next p hp =>
    obtain rfl : p.instr = i := by simpa using h
    exact ⟨by rw [encode_instr, phaseOf_eq_some hp], instr_wellFormed c p⟩
  · cases h

/-- Settles O3: a word of each code space decodes only to what it encodes. -/
theorem encodeDecode : Obligations.EncodeDecode := by
  intro c x i h
  cases x with
  | cw8 w => exact encode_of_decode_cw8 h
  | ph4 w => exact encode_of_decode_ph4 h

/-- Settles O4: the word is `commandWord pin q`, whose remainder and quotient by 4 are `q` and `pin`. -/
theorem commandWordDecoding : Obligations.CommandWordDecoding := by
  intro c w
  obtain ⟨pin, rfl⟩ | ⟨q, pin, rfl⟩ := commandWord_cases w
  · simp [decode_reservedQ3]
  · have hq := code_toNat_ne_three q
    simp only [commandWord_toNat_mod, commandWord_toNat_div, BitVec.ofNat_toNat, BitVec.setWidth_eq, decode_read]
    refine ⟨fun h => absurd h hq, fun _ hpin => if_neg (by omega), fun hpin => ?_⟩
    rw [if_pos hpin]
    exact ⟨fun h => by rw [eq_of_code_toNat (q' := .celsius) h]; rfl,
      fun h => by rw [eq_of_code_toNat (q' := .fahrenheit) h]; rfl,
      fun h => by rw [eq_of_code_toNat (q' := .humidity) h]; rfl⟩

/-! ## Reserved words (R46, R58) -/

/-- R58: a word with `q = 3`, or whose pin is no line, is not accepted. -/
theorem phaseStep_of_reserved {s : State} (hidle : s.ph = .idle)
    (hw : s.hostNow.cmdWord.toNat % 4 = 3 ∨ s.cfg.nPins ≤ s.hostNow.cmdWord.toNat / 4) :
    phaseStep s = .next (clearDone s) := by
  have hq3 : quantityOf 3#2 = none := rfl
  obtain ⟨pin, e⟩ | ⟨q, pin, e⟩ := commandWord_cases s.hostNow.cmdWord
  · simp [phaseStep, hidle, execPhIdle, e, hq3]
  · have hpin : ¬ pin.toNat < s.cfg.nPins := by simpa [e, code_toNat_ne_three] using hw
    simp [phaseStep, hidle, execPhIdle, e, hpin]

/-- Settles O7: the step is the rule of IDLE, which does not accept the word; that leaves 0, 1 and 2 in a build of one line. -/
theorem reservedWordsIgnored : Obligations.ReservedWordsIgnored := by
  refine ⟨fun s hidle hr _ hw => ?_, fun w => ?_⟩
  · exact step_of_runFetched hr ((runFetched_eq_phaseStep s).trans (phaseStep_of_reserved hidle hw))
  · simp only [← BitVec.toNat_inj, BitVec.toNat_ofNat]
    omega

/-- R46: a read presented on a pin that is no line is ignored. -/
theorem exec_read_of_le {s : State} (q : Quantity) {pin : PinNo} (hidle : s.ph = .idle) (hpin : s.cfg.nPins ≤ pin.toNat) :
    exec (q.read pin) s = .next (clearDone s) := by
  rw [exec_read, presentRead, if_pos hidle, if_neg (by omega)]

/-- Settles O11: the reserved row does not look at its pin, and the reads differ only in the quantity. -/
theorem reservedCommandsComplete : Obligations.ReservedCommandsComplete := by
  intro s pin hidle
  refine ⟨if_pos hidle, fun hpin => ?_⟩
  exact ⟨exec_read_of_le .celsius hidle hpin, exec_read_of_le .fahrenheit hidle hpin, exec_read_of_le .humidity hidle hpin⟩

/-! ## Words and numbers written out (R45, R48, R49, R75) -/

/-- Settles O1: nine of the words are encodings of well-formed instructions; the read on pin 1 has no line in this build, and
the code 9 is no phase's. -/
theorem writtenWordsDecode : Obligations.WrittenWordsDecode := by
  refine ⟨decodeEncode _ (.readTC 0) rfl, decodeEncode _ (.readTF 0) rfl, decodeEncode _ (.readRH 0) rfl,
    decodeEncode _ (.reservedQ3 0) rfl, decode_read _ .humidity 1,
    decodeEncode { Config.hardware with nPins := 64 } (.readTF 45) rfl, ?_, ?_, ?_, ?_, ?_⟩
  · exact decodeEncode _ .phIdle rfl
  · exact decodeEncode _ .phAck1 rfl
  · exact decodeEncode _ .phBitdly rfl
  · exact decodeEncode _ .phFinish rfl
  · rfl

/-- R75: Fahrenheit is `C * 1.8 + 32` over all integers. -/
theorem ofHundredths_fahrenheitX100 (t : Int) : ofHundredths (fahrenheitX100 t) = ofTenths t * (9 / 5) + 32 := by
  unfold ofHundredths fahrenheitX100 ofTenths
  push_cast
  ring

/-- Ten times a number of tenths is the same value in hundredths (R72). -/
theorem ofHundredths_ten_mul (n : Nat) : ofHundredths (10 * n : Nat) = ofTenths n := by
  unfold ofHundredths ofTenths
  push_cast
  ring

/-- An integer byte and a byte of tenths (R48). -/
theorem ofTenths_ten_mul_add (b b' : Nat) : ofTenths (10 * b + b' : Nat) = b + b' * (1 / 10) := by
  unfold ofTenths
  push_cast
  ring

/-- Settles O35: the reports of Celsius and humidity scale tenths to hundredths, and that of Fahrenheit is R75's. -/
theorem conversionExact : Obligations.ConversionExact :=
  ⟨ofHundredths_fahrenheitX100,
    fun h t => ⟨ofHundredths_ten_mul t, ofHundredths_fahrenheitX100 t, ofHundredths_ten_mul h⟩, ofTenths_ten_mul_add⟩

end Sys2Proof.Machine

/-! # The read commands (R50 to R55)

What a command does at the step it is presented; that a call in progress sees neither the host's commands nor the quantity
asked for; and the call as a function of the frame it captures on R98's schedule. -/

namespace Sys2Proof.Machine

/-! ## The step at which a command is presented (R50, R55, R58) -/

section
variable {s : State}

/-- R58: a read presented in IDLE on an existing line is accepted. -/
theorem exec_read_of_lt (q : Quantity) {pin : PinNo} (hidle : s.ph = .idle) (hpin : pin.toNat < s.cfg.nPins) :
    exec (q.read pin) s = .next (accept q pin (clearDone s)) := by
  rw [exec_read, presentRead, if_pos hidle, if_pos hpin]

/-- R55: a read presented during a call is lost to the rule of the phase. -/
theorem exec_read_of_busy (q : Quantity) (pin : PinNo) (hbusy : s.ph ≠ .idle) :
    exec (q.read pin) s = exec s.ph.instr s := by
  rw [exec_read, presentRead, if_neg hbusy, exec_instr]

/-- R55: so is the reserved row. -/
theorem exec_reservedQ3_of_busy (pin : PinNo) (hbusy : s.ph ≠ .idle) :
    exec (.reservedQ3 pin) s = exec s.ph.instr s := (if_neg hbusy).trans (exec_instr s).symm

end

/-- Settles O10: the three reads are one presented read, which differs in the quantity only. -/
theorem readCommandsAccepted : Obligations.ReadCommandsAccepted := by
  intro s pin hidle hpin
  exact ⟨exec_read_of_lt .celsius hidle hpin, exec_read_of_lt .fahrenheit hidle hpin,
    exec_read_of_lt .humidity hidle hpin⟩

/-- Settles O12: outside IDLE the four rows fall through to the rule of the phase. -/
theorem commandWhileBusyLost : Obligations.CommandWhileBusyLost := by
  intro s pin hbusy
  exact ⟨exec_read_of_busy .celsius pin hbusy, exec_read_of_busy .fahrenheit pin hbusy,
    exec_read_of_busy .humidity pin hbusy, exec_reservedQ3_of_busy pin hbusy⟩

/-! ## What a call in progress does not see (R50, R55)

From START to BITDLY no rule reads or writes `Q` or the host inputs: replacing them commutes with the rule. -/

/-- A change of the state a rule leaves; the stops stay. -/
def onNext (f : State → State) : Result → Result
  | .next t => .next (f t)
  | .fault r => .fault r
  | .refused r => .refused r

/-- `s` with the quantity `q` asked for and the host inputs `hs`. -/
def State.asked (s : State) (q : Quantity) (hs : List HostIn) : State := { s with q := q, host := hs }

section
variable {s : State} {q : Quantity} {hs : List HostIn}

theorem onNext_next (f : State → State) (t : State) : onNext f (.next t) = .next (f t) := rfl

theorem onNext_requireLine (f : State → State) (p : PinNo) (k : Result) :
    onNext f (requireLine p s k) = requireLine p s (onNext f k) := apply_ite (onNext f) _ _ _

theorem onNext_requireCell (f : State → State) (i : BitVec 6) (k : Result) :
    onNext f (requireCell i k) = requireCell i (onNext f k) := apply_ite (onNext f) _ _ _

/-- A wait sees neither (R61). -/
theorem waitLevel_asked (v : Level) (f : TimeoutFlag) (p : Phase) :
    waitLevel v f p (s.asked q hs) = (waitLevel v f p s).asked q hs := by
  simp only [waitLevel, apply_ite (State.asked · q hs)]
  cases f <;> rfl

/-- Nor does the whole step of a wait phase. -/
theorem waitStep_asked (v : Level) (f : TimeoutFlag) (p : Phase) :
    requireLine s.pin (s.asked q hs) (.next (waitLevel v f p (clearDone (s.asked q hs)))) =
    onNext (State.asked · q hs) (requireLine s.pin s (.next (waitLevel v f p (clearDone s)))) := by
  rw [onNext_requireLine, onNext_next, ← waitLevel_asked]
  rfl

/-- Nor does the loop control (R67). -/
theorem nextBit_asked : nextBit (s.asked q hs) = (nextBit s).asked q hs := by
  simp only [nextBit, apply_ite (State.asked · q hs)]
  rfl

/-- From START to BITDLY the rule of the phase commutes with the replacement, its stops included. -/
theorem phaseStep_asked (hcap : capturing s.ph = true) :
    phaseStep (s.asked q hs) = onNext (State.asked · q hs) (phaseStep s) := by
  have hph : (s.asked q hs).ph = s.ph := rfl
  simp only [phaseStep, hph]
  cases e : s.ph with
  | idle | finish => simp [e, capturing] at hcap
  | start =>
    simp only [execPhStart, apply_ite (onNext _), onNext_requireLine]
    rfl
  | settle =>
    simp only [execPhSettle, apply_ite (onNext _)]
    rfl
  | ack1 | ack2 | bitw1 | bitw2 => exact waitStep_asked (s := s) _ _ _
  | bitdly =>
    simp only [execPhBitdly, apply_ite (onNext _), onNext_requireLine, onNext_requireCell, onNext_next, ← nextBit_asked]
    rfl

/-- A call in progress is before FINISH or in it. -/
theorem capturing_of_ne {p : Phase} (hi : p ≠ .idle) (hf : p ≠ .finish) : capturing p = true := by
  revert hi hf; cases p <;> decide

/-- Outside IDLE the rule and the moving on to the next inputs do not see the host inputs of this step. -/
theorem phaseStep_host_congr {h h' : HostIn} {rest : List HostIn} (hbusy : s.ph ≠ .idle) :
    advanceOutcome (phaseStep { s with host := h :: rest }) = advanceOutcome (phaseStep { s with host := h' :: rest }) := by
  by_cases hf : s.ph = .finish
  · simp only [phaseStep, hf]
    rfl
  · have hcap := capturing_of_ne hbusy hf
    change advanceOutcome (phaseStep (s.asked s.q (h :: rest))) = advanceOutcome (phaseStep (s.asked s.q (h' :: rest)))
    rw [phaseStep_asked hcap, phaseStep_asked hcap]
    cases phaseStep s <;> rfl

end

/-- Settles O13: `rst` selects between reset, which sees nothing else of the inputs of this step, and the rule of the
phase. -/
theorem busyIgnoresCommands : Obligations.BusyIgnoresCommands := by
  intro s h h' rest hbusy hrst
  have hnow (x : HostIn) : State.hostNow { s with host := x :: rest } = x := rfl
  simp only [step, hnow, hrst, runFetched_eq_phaseStep, phaseStep_host_congr (h := h) (h' := h') hbusy]
  rfl

/-- Settles O52: the rule of a phase from START to BITDLY commutes with the replacement of `Q`. -/
theorem captureIndependentOfQuantity : Obligations.CaptureIndependentOfQuantity := by
  intro s t q hcap hr hst
  obtain ⟨hr', -⟩ | ⟨-, u, hu, rfl⟩ := step_cases hst
  · exact absurd (hr.symm.trans hr') (by decide)
  · rw [runFetched_eq_phaseStep] at hu
    have hasked : phaseStep (s.asked q s.host) = .next (u.asked q s.host) := by rw [phaseStep_asked hcap, hu]; rfl
    calc step { s with q := q }
      _ = .next (advance (u.asked q s.host)) := step_of_runFetched hr ((runFetched_eq_phaseStep _).trans hasked)
      _ = .next { advance u with q := q } := by rw [← (phaseStep_sameInputs hu).host]; rfl

/-! ## The schedule up to FINISH (R98) -/

section
variable {L : Nat → Level} {v : Level} {c : Config}

/-- A search finds nothing before it begins. -/
theorem le_of_firstAt {k e x : Nat} (h : firstAt L v k e = some x) : e ≤ x := by
  induction k generalizing e with
  | zero => simp [firstAt] at h
  | succ k ih =>
    rw [firstAt] at h
    split at h
    · simp_all
    · exact Nat.le_of_succ_le (ih h)

/-- A wait does not end while its samples fail, its last one apart (R61). -/
theorem le_waitEnd {e n : Nat} (hn : n < c.tTimeout) (hmiss : ∀ i, i < n → L (e + i) ≠ v) :
    e + n ≤ waitEnd c L v e := by
  obtain ⟨k, hk⟩ : ∃ k, c.tTimeout = n + (k + 1) := ⟨c.tTimeout - n - 1, by omega⟩
  unfold waitEnd
  rw [hk, firstAt_add hmiss]
  cases hfind : firstAt L v (k + 1) (e + n) with
  | none => simp only [Option.getD_none]; omega
  | some x => exact le_of_firstAt hfind

theorem self_le_waitEnd (hc : c.Legal) (e : Nat) : e ≤ waitEnd c L v e :=
  le_waitEnd hc.timeout_pos fun i hi => absurd hi (Nat.not_lt_zero i)

/-- The two waits of a bit lie between its first step and its sample. -/
theorem bit_ordered (hc : c.Legal) (L : Nat → Level) (i : Nat) :
    bitStart c L 0 i ≤ bitHigh c L 0 i ∧ bitHigh c L 0 i + 1 ≤ bitFall c L 0 i ∧
      bitFall c L 0 i + 1 ≤ bitSample c L 0 i :=
  ⟨self_le_waitEnd hc _, self_le_waitEnd hc _, Nat.add_le_add_left hc.sample_pos _⟩

/-- The bits are taken one after the other. -/
theorem bitSample_le (hc : c.Legal) (L : Nat → Level) {i j : Nat} (hij : i ≤ j) :
    bitSample c L 0 i ≤ bitSample c L 0 j := by
  refine monotone_nat_of_le_succ (fun n => ?_) hij
  have hbegin : bitStart c L 0 (n + 1) = bitSample c L 0 n + 1 := rfl
  have hnext := bit_ordered hc L (n + 1)
  omega

/-- Each phase of the call before FINISH begins no later than the sample of its bit. -/
theorem phaseBegin_le_bitSample (hc : c.Legal) (L : Nat → Level) (i : Nat) {p : Phase} (hp : p ≠ .finish) :
    phaseBegin c L i p ≤ bitSample c L 0 i := by
  have hfirst := bitSample_le hc L (Nat.zero_le i)
  have hbit0 := bit_ordered hc L 0
  have hbit := bit_ordered hc L i
  have hloop : bitStart c L 0 0 = ack2End c L 0 + 1 := rfl
  have hack1 : ack1Start c 0 ≤ ack1End c L 0 := self_le_waitEnd hc _
  have hack2 : ack1End c L 0 + 1 ≤ ack2End c L 0 := self_le_waitEnd hc _
  have hwake : ack1Start c 0 = 0 + c.tStart + c.tSettle + 1 := rfl
  cases p
  case finish => exact absurd rfl hp
  all_goals simp only [phaseBegin]; omega

end

namespace Scheduled

variable {c : Config} {L : Nat → Level} {pin : PinNo} {k : Nat} {t : State}

/-- A wait in progress has not passed its end. -/
theorem le_waitEnd {v : Level} {f : TimeoutFlag} {p : Phase} (h : Scheduled c L pin k t) (hw : IsWait c t.ph v f p)
    (hb : c.bounded = true) : k ≤ waitEnd c L v (phaseBegin c L t.bitidx.toNat t.ph) := by
  have hlt : t.cnt < c.tTimeout := by simpa [hw.cntBound_eq, hb] using h.cnt_lt
  exact h.on_time ▸ Machine.le_waitEnd hlt (h.missed v hw.awaited_eq)

/-- In a wait of a bit, or one before the first, the sample of the bit is still to come. -/
theorem le_bitSample_of_wait {v : Level} {f : TimeoutFlag} {p : Phase} (h : Scheduled c L pin k t) (hc : c.Legal)
    (hb : c.bounded = true) (hw : IsWait c t.ph v f p) : k ≤ bitSample c L 0 t.bitidx.toNat := by
  have hzero : beforeLoop t.ph = true → t.bitidx.toNat = 0 := fun e => by rw [h.bitidx_zero e]; rfl
  calc k
    _ ≤ waitEnd c L v (phaseBegin c L t.bitidx.toNat t.ph) := h.le_waitEnd hw hb
    _ ≤ phaseBegin c L t.bitidx.toNat p := hw.phaseBegin_next L hzero ▸ Nat.le_succ _
    _ ≤ bitSample c L 0 t.bitidx.toNat := phaseBegin_le_bitSample hc L _ hw.next_ne_finish

/-- Before FINISH the sample of the bit is still to come, or is this step. -/
theorem le_bitSample (h : Scheduled c L pin k t) (hc : c.Legal) (hb : c.bounded = true) (hf : t.ph ≠ .finish) :
    k ≤ bitSample c L 0 t.bitidx.toNat := by
  have htime := h.on_time
  have hlt := h.cnt_lt
  have hbegin (p : Phase) (hp : p ≠ .finish) := phaseBegin_le_bitSample hc L t.bitidx.toNat hp
  cases hph : t.ph
  case idle => exact absurd hph h.in_call
  case finish => exact absurd hph hf
  case ack1 => exact h.le_bitSample_of_wait hc hb (by rw [hph]; exact .ack1)
  case ack2 => exact h.le_bitSample_of_wait hc hb (by rw [hph]; exact .ack2)
  case bitw1 => exact h.le_bitSample_of_wait hc hb (by rw [hph]; exact .bitw1)
  case bitw2 => exact h.le_bitSample_of_wait hc hb (by rw [hph]; exact .bitw2)
  case start =>
    have hafter := hbegin .settle (by decide)
    simp only [hph, phaseBegin, cntBound] at htime hlt hafter
    omega
  case settle =>
    have hafter := hbegin .ack1 (by decide)
    simp only [hph, phaseBegin, cntBound, ack1Start] at htime hlt hafter
    omega
  case bitdly =>
    simp only [hph, phaseBegin, cntBound] at htime hlt
    have hsample : bitSample c L 0 t.bitidx.toNat = bitFall c L 0 t.bitidx.toNat + c.tSample := rfl
    omega

/-- At the step R98 gives for it, FINISH executes. -/
theorem finish_on_time (h : Scheduled c L pin (finishAt c L 0) t) (hc : c.Legal) (hb : c.bounded = true) :
    t.ph = .finish := by
  by_contra hf
  have hsample := h.le_bitSample hc hb hf
  have hlast := bitSample_le hc L h.bitidx_le
  have hfinish : finishAt c L 0 = bitSample c L 0 39 + 1 := rfl
  omega

/-- The last step of BITDLY is R98's sample step of its bit. -/
theorem sample_on_time (h : Scheduled c L pin k t) (hph : t.ph = .bitdly) (hend : t.cnt + 1 = c.tSample) :
    k = bitSample c L 0 t.bitidx.toNat := by
  have htime := h.on_time
  simp only [hph, phaseBegin] at htime
  have hsample : bitSample c L 0 t.bitidx.toNat = bitFall c L 0 t.bitidx.toNat + c.tSample := rfl
  omega

/-- After the start pulse the line is the sensor side (R38). -/
theorem line_eq (h : Scheduled c L pin k t) (hs : t.ph ≠ .start) : lineRead t.pin t = t.sensAt 0 pin := by
  simp [lineRead_eq, h.pin_eq, h.released hs]

end Scheduled

/-! ## The captured frame (R12, R67, R98) -/

/-- `t` holds what a call for `q` has captured so far: the line's level at the sample step of every bit already taken. -/
structure Captured (c : Config) (L : Nat → Level) (q : Quantity) (t : State) : Prop where
  q_eq : t.q = q
  cells : ∀ j, j < 40 → j < t.bitidx.toNat ∨ t.ph = .finish → cell t.fb j = L (bitSample c L 0 j)

namespace Captured

variable {c : Config} {L : Nat → Level} {q : Quantity} {pin : PinNo} {k : Nat} {t u : State}

theorem of_accept (q : Quantity) (pin : PinNo) (s : State) : Captured c L q (accept q pin s) where
  q_eq := rfl
  cells := fun j _ hj => by simp at hj

theorem advance (h : Captured c L q t) : Captured c L q (advance t) := ⟨h.q_eq, h.cells⟩

/-- A move that takes no sample keeps what is captured. -/
theorem congr (h : Captured c L q t) (hq : u.q = t.q) (hfb : u.fb = t.fb) (hbit : u.bitidx = t.bitidx)
    (hf : u.ph ≠ .finish) : Captured c L q u := by
  refine ⟨hq.trans h.q_eq, fun j hj hlt => ?_⟩
  rw [hfb]
  exact h.cells j hj (.inl (hbit ▸ hlt.resolve_right hf))

/-- The cells after the sample of a bit at its sample step. -/
theorem cell_sample {v : Level} (h : Captured c L q t) (hi : t.bitidx.toNat ≤ 39)
    (hv : v = L (bitSample c L 0 t.bitidx.toNat)) {j : Nat} (hj : j ≤ t.bitidx.toNat) :
    cell (t.fb.setIfInBounds t.bitidx.toNat v) j = L (bitSample c L 0 j) := by
  obtain rfl | hlt := Nat.eq_or_lt_of_le hj
  · rw [cell_set_same t.fb (by omega), hv]
  · rw [cell_set_other t.fb (by omega)]
    exact h.cells j (by omega) (.inl hlt)

/-- Each move of a call before FINISH captures what R98 says. -/
theorem move (h : Captured t.cfg L q t) (hsched : Scheduled t.cfg L pin k t) (hL : t.sensAt 0 pin = L k)
    (hf : t.ph ≠ .finish) (hm : PhaseMove t u) : Captured t.cfg L q u := by
  have hlevel (hph : t.ph = .bitdly) (hend : t.cnt + 1 = t.cfg.tSample) :
      lineRead t.pin t = L (bitSample t.cfg L 0 t.bitidx.toNat) := by
    rw [hsched.line_eq (by simp [hph]), hL, ← hsched.sample_on_time hph hend]
  cases hm
  case ignored hph _ => exact absurd hph hsched.in_call
  case accepted hph _ _ _ => exact absurd hph hsched.in_call
  case finished hph => exact absurd hph hf
  case sampledLast hph hend hpin hi =>
    refine ⟨h.q_eq, fun j hj _ => h.cell_sample hsched.bitidx_le (hlevel hph hend) ?_⟩
    have hlast : t.bitidx.toNat = 39 := by rw [hi]; rfl
    omega
  case sampledMore hph hend hpin hi =>
    refine ⟨h.q_eq, fun j hj hlt => h.cell_sample hsched.bitidx_le (hlevel hph hend) ?_⟩
    have hsucc : j < t.bitidx.toNat + 1 := by simpa [toNat_bitidx_succ hi] using hlt
    omega
  case observed hw _ _ => exact h.congr (by simp) (by simp) (by simp) (by simp [hw.next_ne_finish])
  case timedOut hw _ _ _ _ => exact h.congr (by simp) (by simp) (by simp) (by simp [hw.next_ne_finish])
  all_goals exact h.congr (by simp) (by simp) (by simp) (by simp [hf])

/-- At FINISH the frame is the one R98 gives. -/
theorem fb_eq (h : Captured c L q t) (hf : t.ph = .finish) : t.fb = capture c L 0 := by
  refine frame_ext fun j hj => (h.cells j hj (.inr hf)).trans ?_
  simp [cell, capture, hj]

end Captured

/-! ## The call as a function (R51 to R54) -/

section
variable {s : State} {q : Quantity} {pin : PinNo}

/-- What the acceptance establishes and every move of the call on schedule keeps holds of every state of the call up to its
FINISH step. -/
theorem call_keeps {P : State → Prop} (hc : s.cfg.Legal) (hb : s.cfg.bounded = true) (ha : Accepts s q pin)
    (hr : NoReset s (finishAt s.cfg (levelFrom s pin) 0))
    (haccept : P (advance (accept q pin (clearDone s))))
    (hmove : ∀ k t u, Scheduled s.cfg (levelFrom s pin) pin k t → t.cfg = s.cfg → t.sensAt 0 pin = levelFrom s pin k →
      t.ph ≠ .finish → PhaseMove t u → P t → P (advance u))
    (k : Nat) (hk : k + 1 ≤ finishAt s.cfg (levelFrom s pin) 0) :
    ∃ t, Runs (k + 1) s t ∧ P t := by
  induction k with
  | zero => exact ⟨_, runs_snoc ((runs_zero s s).mpr rfl) (step_of_accepts ha (hr 0 hk)), haccept⟩
  | succ k ih =>
    obtain ⟨t, hrun, ht⟩ := ih (by omega)
    obtain ⟨t', hrun', hsched, -⟩ := call_state hc hb ha hr k (by omega)
    obtain rfl := runs_unique hrun hrun'
    obtain ⟨hcfg, hhost, hsens⟩ := runs_inputs hrun
    have hf : t.ph ≠ .finish := fun e => by have := hsched.at_finish e; omega
    have hline : t.pin.toNat < t.cfg.nPins := by rw [hsched.pin_eq, hcfg]; exact ha.line
    obtain ⟨u, hm, hst⟩ := step_goes_on (hhost 0 ▸ hr (k + 1) hk) hline (Nat.lt_succ_of_le hsched.bitidx_le)
    exact ⟨advance u, runs_snoc hrun hst, hmove (k + 1) t u hsched hcfg (hsens 0 pin) hf hm ht⟩

/-- R98: the state in which FINISH executes. -/
theorem call_at_finish (hc : s.cfg.Legal) (hb : s.cfg.bounded = true) (ha : Accepts s q pin)
    (hr : NoReset s (finishAt s.cfg (levelFrom s pin) 0)) :
    ∃ t, Runs (finishAt s.cfg (levelFrom s pin) 0) s t ∧ t.ph = .finish ∧ t.q = q ∧
      t.fb = capture s.cfg (levelFrom s pin) 0 ∧ OutputsHeld s t := by
  obtain ⟨t, hrun, hsched, hheld⟩ := call_state hc hb ha hr _ le_rfl
  obtain ⟨t', hrun', hcapt⟩ : ∃ t, Runs _ s t ∧ Captured s.cfg (levelFrom s pin) q t := by
    refine call_keeps hc hb ha hr (Captured.of_accept q pin _).advance (fun k t u hsched hcfg hL hf hm h => ?_) _ le_rfl
    rw [← hcfg] at hsched h ⊢
    exact (h.move hsched hL hf hm).advance
  obtain rfl := runs_unique hrun hrun'
  have hf := hsched.finish_on_time hc hb
  exact ⟨t, hrun, hf, hcapt.q_eq, hcapt.fb_eq hf, hheld⟩

/-- R68: the FINISH step. -/
theorem step_of_finish (hr : (s.hostAt 0).rst = false) (hph : s.ph = .finish) :
    step s = .next (advance (finishCall (clearDone s))) := by
  refine step_of_runFetched hr ((runFetched_eq_phaseStep s).trans ?_)
  simp [phaseStep, hph, execPhFinish]

end

/-- Settles O40: FINISH executes on the captured frame with the operand latched and the pair held since the acceptance, and
its effect is `Call`. -/
theorem callIsFunction : Obligations.CallIsFunction := by
  intro s q pin hc hb ha L hr
  obtain ⟨t, hrun, hf, rfl, hfb, hheld⟩ := call_at_finish hc hb ha fun i hi => hr i (Nat.lt_succ_of_lt hi)
  have hr0 : (t.hostAt 0).rst = false := (runs_inputs hrun).2.1 0 ▸ hr _ (Nat.lt_succ_self _)
  refine ⟨_, runs_snoc hrun (step_of_finish hr0 hf), rfl, rfl, rfl, ?_⟩
  rw [← hfb, ← hheld.lastH, ← hheld.lastT]
  rfl

section
variable {fb : FrameBuffer}

/-- R54: a valid frame is committed. -/
theorem call_pair_of_ok (q : Quantity) (h t : Tenths) (hok : Claims.ChecksumOk fb) :
    (call q fb h t).lastH.toNat = 10 * frameByte fb 0 + frameByte fb 1 ∧
    (call q fb h t).lastT.toNat = 10 * frameByte fb 2 + frameByte fb 3 := by
  simpa only [call, (validate_iff fb).mpr hok] using commit_ok_toNat fb h t

/-- R54: any other frame leaves the pair. -/
theorem call_pair_of_not_ok (q : Quantity) (h t : Tenths) (hbad : ¬ Claims.ChecksumOk fb) :
    (call q fb h t).lastH = h ∧ (call q fb h t).lastT = t := by
  have hinvalid : validate (frameBytes fb) = false := by rwa [← validate_iff, Bool.not_eq_true] at hbad
  simp [call, hinvalid, commit_not]

/-- R54, R74: RESULT is the report of the pair after the call, with nothing lost for a pair in range before it. -/
theorem call_result_toNat (q : Quantity) (fb : FrameBuffer) {h t : Tenths} (hh : h.toNat ≤ 2805) (ht : t.toNat ≤ 2805) :
    (call q fb h t).result.toNat = report q (call q fb h t).lastH.toNat (call q fb h t).lastT.toNat := by
  obtain ⟨hh', ht'⟩ := commit_le (validate (frameBytes fb)) fb hh ht
  have hfits := report_le q hh' ht'
  exact (BitVec.toNat_ofNat _ _).trans (Nat.mod_eq_of_lt (by omega))

end

/-- Settles O41: the numbers of `Call` of the captured frame and the pair before the call, which the invariant keeps in
range. -/
theorem readResults : Obligations.ReadResults := by
  intro s q pin hinv hb ha L fb hr
  obtain ⟨t, hrun, -, -, hdone, hcall⟩ := callIsFunction s q pin hinv.legal hb ha hr
  have hlastH : t.lastH = (call q fb s.lastH s.lastT).lastH := congrArg CallResult.lastH hcall
  have hlastT : t.lastT = (call q fb s.lastH s.lastT).lastT := congrArg CallResult.lastT hcall
  have hresult : t.result.toNat = report q t.lastH.toNat t.lastT.toNat := by
    rw [hlastH, hlastT, ← call_result_toNat q fb hinv.lastH_le hinv.lastT_le]
    exact congrArg (fun r => r.result.toNat) hcall
  refine ⟨t, hrun, hdone, fun hok => ?_, fun hbad => ?_, ?_, ?_, ?_⟩
  · rw [hlastH, hlastT]; exact call_pair_of_ok q s.lastH s.lastT hok
  · rw [hlastH, hlastT]; exact call_pair_of_not_ok q s.lastH s.lastT hbad
  · rintro rfl; exact hresult
  · rintro rfl; exact hresult
  · rintro rfl; exact hresult

end Sys2Proof.Machine

/-! # The phase rules (R56 to R68)

What each phase rule leaves under each of its guards, one equation per arm; so every move is the step that makes it. -/

namespace Sys2Proof.Machine

/-! ## The step and its instruction (R56) -/

section
variable {s : State}

/-- Without reset the step is the fetched instruction, its stops included. -/
theorem step_eq_runFetched (hr : (s.hostAt 0).rst = false) : step s = advanceOutcome (runFetched s) := by
  refine if_neg fun hreset => ?_
  exact absurd (hr.symm.trans hreset) (by decide)

/-- A fetched word that decodes is executed. -/
theorem runFetched_of_fetch {i : Instr} (h : fetch s = .ok i) : runFetched s = exec i s := by
  simp [runFetched, h]

end

/-- Settles O6: the fetched instruction is the rule of the phase, in IDLE whatever the host presents. -/
theorem stepExecutesPhaseRule : Obligations.StepExecutesPhaseRule := by
  intro s hr
  rw [step_eq_runFetched hr, runFetched_eq_phaseStep, exec_instr]

/-- Settles O5: the word is the fetched one, and moving on to the next inputs passes the stops on. -/
theorem stepRunsFetched : Obligations.StepRunsFetched := by
  intro s i hr hdecode
  rw [step_eq_runFetched hr, runFetched_of_fetch hdecode]
  cases exec i s <;> rfl

/-! ## One equation per arm -/

section
variable {s : State}

/-- R58: a legal presented word is accepted. -/
theorem exec_phIdle_accept {q : Quantity} (hq : quantityOf (qField s.hostNow.cmdWord) = some q)
    (hv : s.hostNow.cmdValid = true) (hpin : (pinField s.hostNow.cmdWord).toNat < s.cfg.nPins) :
    exec .phIdle s = .next (accept q (pinField s.hostNow.cmdWord) (clearDone s)) := by
  simp [exec, execPhIdle, hq, hv, hpin]

/-- R58: any other input is ignored. -/
theorem exec_phIdle_ignore (h : quantityOf (qField s.hostNow.cmdWord) = none ∨
      ¬ (s.hostNow.cmdValid = true ∧ (pinField s.hostNow.cmdWord).toNat < s.cfg.nPins)) :
    exec .phIdle s = .next (clearDone s) := by
  simp only [exec, execPhIdle]
  cases hq : quantityOf (qField s.hostNow.cmdWord) with
  | none => rfl
  | some q => exact if_neg (by simpa [hq] using h)

/-- R59: the last step of the pulse. -/
theorem exec_phStart_last (hc : s.cnt + 1 = s.cfg.tStart) (hpin : s.pin.toNat < s.cfg.nPins) :
    exec .phStart s = .next (enterPhase .settle (lineDrive s.pin false (clearDone s))) :=
  (if_pos hc).trans (requireLine_of_lt hpin)

/-- R59: the steps before it. -/
theorem exec_phStart_count (hc : s.cnt + 1 ≠ s.cfg.tStart) : exec .phStart s = .next (countUp (clearDone s)) :=
  if_neg hc

/-- R60: the last settling step. -/
theorem exec_phSettle_last (hc : s.cnt + 1 = s.cfg.tSettle) :
    exec .phSettle s = .next (enterPhase .ack1 (clearDone s)) := if_pos hc

/-- R60: the steps before it. -/
theorem exec_phSettle_count (hc : s.cnt + 1 ≠ s.cfg.tSettle) : exec .phSettle s = .next (countUp (clearDone s)) :=
  if_neg hc

/-- R62 to R65: each wait phase is `WaitLevel` of its level, flag and next phase, on an existing line. -/
theorem exec_wait {p p' : Phase} {v : Level} {f : TimeoutFlag} (hw : IsWait s.cfg p v f p')
    (hpin : s.pin.toNat < s.cfg.nPins) : exec p.instr s = .next (waitLevel v f p' (clearDone s)) := by
  cases hw with
  | ack1 | ack2 | bitw1 | bitw2 => exact requireLine_of_lt hpin

/-- R67: the sample step of a bit. -/
theorem exec_phBitdly_sample (hc : s.cnt + 1 = s.cfg.tSample) (hpin : s.pin.toNat < s.cfg.nPins)
    (hi : s.bitidx.toNat < 40) : exec .phBitdly s = .next (nextBit (storeSample (clearDone s))) :=
  (if_pos hc).trans ((requireLine_of_lt hpin).trans (requireCell_of_lt hi))

/-- R67: the steps before it. -/
theorem exec_phBitdly_count (hc : s.cnt + 1 ≠ s.cfg.tSample) : exec .phBitdly s = .next (countUp (clearDone s)) :=
  if_neg hc

/-- R67: the sample of bit 39. -/
theorem exec_phBitdly_last (hc : s.cnt + 1 = s.cfg.tSample) (hpin : s.pin.toNat < s.cfg.nPins)
    (hi : s.bitidx = 39#6) : exec .phBitdly s = .next (enterPhase .finish (storeSample (clearDone s))) := by
  rw [exec_phBitdly_sample hc hpin (by simp [hi]), nextBit_last (s := storeSample (clearDone s)) hi]

/-- R67: the sample of an earlier bit. -/
theorem exec_phBitdly_more (hc : s.cnt + 1 = s.cfg.tSample) (hpin : s.pin.toNat < s.cfg.nPins)
    (hi : s.bitidx.toNat < 39) :
    exec .phBitdly s = .next (enterPhase .bitw1 { storeSample (clearDone s) with bitidx := s.bitidx + 1#6 }) := by
  have hne : s.bitidx ≠ 39#6 := by rintro e; simp [e] at hi
  rw [exec_phBitdly_sample hc hpin (by omega), nextBit_more (s := storeSample (clearDone s)) hne]
  rfl

/-- A count that fits `CNT_W` does not wrap (R17). -/
theorem countUp_of_lt (h : s.cnt + 1 < 2 ^ s.cfg.cntW) : countUp s = { s with cnt := s.cnt + 1 } := by
  rw [countUp, Nat.mod_eq_of_lt h]

end

/-! ## The rules of IDLE, START, SETTLE, the waits and BITDLY -/

/-- Settles O14: the word is `commandWord pin q`, with `q` reserved or the code of a quantity. -/
theorem idleRule : Obligations.IdleRule := by
  intro s w
  obtain ⟨pin, e⟩ | ⟨q, pin, e⟩ := commandWord_cases s.hostNow.cmdWord
  · have hw : w = (commandWord pin 3#2).toNat := congrArg BitVec.toNat e
    have hq : w % 4 = 3 := hw ▸ commandWord_toNat_mod pin 3#2
    exact ⟨fun h => absurd hq h.2.1, fun _ => exec_phIdle_ignore (.inl (by rw [e, qField_commandWord]; rfl))⟩
  · have hw : w = (commandWord pin q.code).toNat := congrArg BitVec.toNat e
    have hq : w % 4 = q.code.toNat := hw ▸ commandWord_toNat_mod pin q.code
    have hpin : w / 4 = pin.toNat := hw ▸ commandWord_toNat_div pin q.code
    have hquantity : quantityOf (qField s.hostNow.cmdWord) = some q := by simp [e]
    have hfield : pinField s.hostNow.cmdWord = pin := by simp [e]
    refine ⟨fun ⟨hv, _, hlt⟩ => ⟨q, pin, hq.symm, hpin.symm, ?_⟩,
      fun h => exec_phIdle_ignore (.inr fun ⟨hv, hlt⟩ => ?_)⟩
    · rw [exec_phIdle_accept hquantity hv (by rwa [hfield, ← hpin]), hfield]
      rfl
    · rw [hfield, ← hpin] at hlt
      exact h ⟨hv, hq ▸ code_toNat_ne_three q, hlt⟩

/-- Settles O15: the two arms of R59, the count not wrapping. -/
theorem startRule : Obligations.StartRule := by
  refine fun s => ⟨fun hc hpin => exec_phStart_last hc hpin, fun hc hfit => ?_⟩
  rw [exec_phStart_count hc, countUp_of_lt (s := clearDone s) hfit]
  rfl

/-- Settles O16: the two arms of R60, the count not wrapping. -/
theorem settleRule : Obligations.SettleRule := by
  refine fun s => ⟨fun hc => exec_phSettle_last hc, fun hc hfit => ?_⟩
  rw [exec_phSettle_count hc, countUp_of_lt (s := clearDone s) hfit]
  rfl

/-- The four arms of R61, for any wait. -/
theorem waitArms_of_isWait {p p' : Phase} {level : Config → Level} {f : TimeoutFlag}
    (hw : ∀ c, IsWait c p (level c) f p') : Claims.WaitArms p.instr level (raiseFlag f) p' := by
  intro s hpin
  rw [exec_wait (hw s.cfg) hpin]
  refine ⟨fun hl => ?_, fun hl hb hc => ?_, fun hl hb hc hfit => ?_, fun hl hb => ?_⟩
  · rw [waitLevel_seen (s := clearDone s) hl]
    rfl
  · rw [waitLevel_timeout (s := clearDone s) hl hb hc]
    cases f <;> rfl
  · rw [waitLevel_count (s := clearDone s) hl hb hc, countUp_of_lt (s := clearDone s) hfit]
    rfl
  · rw [waitLevel_stay (s := clearDone s) hl hb]
    rfl

/-- Settles O17: the four waits are one operation. -/
theorem waitRules : Obligations.WaitRules :=
  ⟨waitArms_of_isWait (p := .ack1) fun _ => .ack1, waitArms_of_isWait (p := .ack2) fun _ => .ack2,
    waitArms_of_isWait (p := .bitw1) fun _ => .bitw1, waitArms_of_isWait (p := .bitw2) fun _ => .bitw2⟩

/-- Settles O18: the sample is stored in one cell, and the loop control looks at `bitidx` alone. -/
theorem bitdlyRule : Obligations.BitdlyRule := by
  refine fun s => ⟨fun hc hpin hi => ⟨s.fb.setIfInBounds s.bitidx.toNat (lineRead s.pin s), fun j hj => ?_,
    fun hlast => ?_, fun hmore => ?_⟩, fun hc hfit => ?_⟩
  · have hcell : s.bitidx.toNat < 40 := by omega
    simp [cell_set, hcell]
  · exact exec_phBitdly_last hc hpin (BitVec.eq_of_toNat_eq hlast)
  · exact exec_phBitdly_more hc hpin hmore
  · rw [exec_phBitdly_count hc, countUp_of_lt (s := clearDone s) hfit]
    rfl

/-! ## A move is the step that makes it -/

section
variable {s u : State}

/-- The rule of the phase `ph` holds is that phase's instruction. -/
theorem phaseStep_of_ph {p : Phase} (h : s.ph = p) : phaseStep s = exec p.instr s := by
  rw [← h, exec_instr]

/-- The rule of a wait phase. -/
theorem phaseStep_of_wait {v : Level} {f : TimeoutFlag} {p : Phase} (hw : IsWait s.cfg s.ph v f p)
    (hpin : s.pin.toNat < s.cfg.nPins) : phaseStep s = .next (waitLevel v f p (clearDone s)) :=
  (phaseStep_of_ph rfl).trans (exec_wait hw hpin)

/-- Under the guards of a move the rule of the phase makes it. -/
theorem PhaseMove.phaseStep_eq (hm : PhaseMove s u) : phaseStep s = .next u := by
  cases hm with
  | ignored hph hw => exact (phaseStep_of_ph hph).trans (exec_phIdle_ignore hw)
  | accepted q hph hq hv hpin => exact (phaseStep_of_ph hph).trans (exec_phIdle_accept hq hv hpin)
  | released hph hc hpin => exact (phaseStep_of_ph hph).trans (exec_phStart_last hc hpin)
  | settled hph hc => exact (phaseStep_of_ph hph).trans (exec_phSettle_last hc)
  | counted hph hc =>
    obtain e | e | e := hph <;> rw [e] at hc
    · exact (phaseStep_of_ph e).trans (exec_phStart_count hc)
    · exact (phaseStep_of_ph e).trans (exec_phSettle_count hc)
    · exact (phaseStep_of_ph e).trans (exec_phBitdly_count hc)
  | observed hw hpin hl => rw [phaseStep_of_wait hw hpin, waitLevel_seen (s := clearDone s) hl]
  | timedOut hw hpin hl hb hc => rw [phaseStep_of_wait hw hpin, waitLevel_timeout (s := clearDone s) hl hb hc]
  | missed hw hpin hl hb hc => rw [phaseStep_of_wait hw hpin, waitLevel_count (s := clearDone s) hl hb hc]
  | stayed hw hpin hl hb => rw [phaseStep_of_wait hw hpin, waitLevel_stay (s := clearDone s) hl hb]
  | sampledLast hph hc hpin hi => exact (phaseStep_of_ph hph).trans (exec_phBitdly_last hc hpin hi)
  | sampledMore hph hc hpin hi => exact (phaseStep_of_ph hph).trans (exec_phBitdly_more hc hpin hi)
  | finished hph => exact phaseStep_of_ph hph

/-- So does the step without reset. -/
theorem PhaseMove.step_eq (hm : PhaseMove s u) (hr : (s.hostAt 0).rst = false) : step s = .next (advance u) :=
  step_of_runFetched hr ((runFetched_eq_phaseStep s).trans hm.phaseStep_eq)

/-- No move writes the build parameters or the inputs. -/
theorem PhaseMove.sameInputs (hm : PhaseMove s u) : SameInputs s u := phaseStep_sameInputs hm.phaseStep_eq

end

/-! ## The start pulse and the settling time (R38, R59, R60) -/

section
variable {s t : State} {q : Quantity} {pin : PinNo}

/-- A shorter stretch of steps without reset. -/
theorem noReset_mono {j k : Nat} (hr : NoReset s k) (h : j ≤ k) : NoReset s j := fun i hi => hr i (hi.trans_le h)

/-- After a run the steps without reset that remain. -/
theorem noReset_of_runs {j k : Nat} (h : Runs j s t) (hr : NoReset s (j + k)) : NoReset t k := fun i hi =>
  (runs_inputs h).2.1 i ▸ hr (j + i) (by omega)

/-- A phase of fixed length counts its steps, and leaves the line as it is. -/
theorem runs_count (hc : s.cfg.Legal) (hph : s.ph = .start ∨ s.ph = .settle ∨ s.ph = .bitdly) (hcnt : s.cnt = 0)
    {k : Nat} (hk : k < cntBound s.cfg s.ph) (hr : NoReset s k) :
    ∃ t, Runs k s t ∧ t.ph = s.ph ∧ t.cnt = k ∧ t.pin = s.pin ∧ t.oeLow = s.oeLow := by
  induction k with
  | zero => exact ⟨s, (runs_zero s s).mpr rfl, rfl, hcnt, rfl, rfl⟩
  | succ k ih =>
    obtain ⟨t, hrun, htph, htcnt, htpin, htoe⟩ := ih (Nat.lt_of_succ_lt hk) (noReset_mono hr (Nat.le_succ k))
    have hcfg := (runs_inputs hrun).1
    have hr0 : (t.hostAt 0).rst = false := noReset_of_runs hrun hr 0 (by omega)
    have hm : PhaseMove t (countUp (clearDone t)) :=
      .counted (by rwa [htph]) (by rw [htph, hcfg, htcnt]; omega)
    have hfits : (clearDone t).cnt + 1 < 2 ^ (clearDone t).cfg.cntW := by
      rw [clearDone_cnt, clearDone_cfg, htcnt, hcfg]
      exact hk.trans_le (cntBound_legal hc s.ph).2
    refine ⟨_, runs_snoc hrun (hm.step_eq hr0), htph, ?_, htpin, htoe⟩
    rw [advance_cnt, countUp_cnt_of_lt hfits, clearDone_cnt, htcnt]

/-- R59: the states of the start pulse. -/
theorem pulse_state (hc : s.cfg.Legal) (ha : Accepts s q pin) {k : Nat} (hk : k < s.cfg.tStart)
    (hr : NoReset s (1 + k)) :
    ∃ t, Runs (1 + k) s t ∧ t.ph = .start ∧ t.cnt = k ∧ t.pin = pin ∧ lineBit t.oeLow pin = true := by
  have hrun : Runs 1 s (advance (accept q pin (clearDone s))) :=
    runs_snoc ((runs_zero s s).mpr rfl) (step_of_accepts ha (hr 0 (by omega)))
  obtain ⟨t, hrun', hph, hcnt, hpin, hoe⟩ :=
    runs_count (s := advance (accept q pin (clearDone s))) hc (.inl rfl) rfl hk (noReset_of_runs hrun hr)
  refine ⟨t, runs_add hrun hrun', hph, hcnt, hpin, ?_⟩
  simp [hoe, lineBit_set]

/-- R59: the line is released after `T_START` steps. -/
theorem pulse_end (hc : s.cfg.Legal) (ha : Accepts s q pin) (hr : NoReset s (s.cfg.tStart + 1)) :
    ∃ t, Runs (s.cfg.tStart + 1) s t ∧ t.ph = .settle ∧ t.cnt = 0 ∧ lineBit t.oeLow pin = false := by
  obtain ⟨k, hk⟩ : ∃ k, s.cfg.tStart = 1 + k := Nat.exists_eq_add_of_le hc.start_pos
  rw [hk] at hr ⊢
  obtain ⟨t, hrun, hph, hcnt, rfl, -⟩ :=
    pulse_state hc ha (by omega : k < s.cfg.tStart) (noReset_mono hr (by omega))
  have hcfg := (runs_inputs hrun).1
  have hm : PhaseMove t (enterPhase .settle (lineDrive t.pin false (clearDone t))) :=
    .released hph (by rw [hcnt, hcfg, hk, Nat.add_comm]) (by rw [hcfg]; exact ha.line)
  have hst := hm.step_eq (noReset_of_runs hrun hr 0 Nat.zero_lt_one)
  exact ⟨_, runs_snoc hrun hst, rfl, rfl, by simp [lineBit_set]⟩

/-- R60: the states of the settling time. -/
theorem settle_state (hc : s.cfg.Legal) (ha : Accepts s q pin) {k : Nat} (hk : k < s.cfg.tSettle)
    (hr : NoReset s (s.cfg.tStart + 1 + k)) :
    ∃ t, Runs (s.cfg.tStart + 1 + k) s t ∧ t.ph = .settle ∧ t.cnt = k ∧ lineBit t.oeLow pin = false := by
  obtain ⟨t, hrun, hph, hcnt, hrel⟩ := pulse_end hc ha (noReset_mono hr (by omega))
  have hcfg := (runs_inputs hrun).1
  obtain ⟨u, hrun', huph, hucnt, -, hoe⟩ :=
    runs_count (hcfg ▸ hc) (.inr (.inl hph)) hcnt (by rw [hph, hcfg]; exact hk) (noReset_of_runs hrun hr)
  exact ⟨u, runs_add hrun hrun', huph.trans hph, hucnt, hoe ▸ hrel⟩

/-- R60: the first wait begins after `T_SETTLE` steps. -/
theorem settle_end (hc : s.cfg.Legal) (ha : Accepts s q pin) (hr : NoReset s (s.cfg.tStart + s.cfg.tSettle + 1)) :
    ∃ t, Runs (s.cfg.tStart + s.cfg.tSettle + 1) s t ∧ t.ph = .ack1 ∧ t.cnt = 0 := by
  obtain ⟨k, hk⟩ : ∃ k, s.cfg.tSettle = 1 + k := Nat.exists_eq_add_of_le hc.settle_pos
  rw [hk, ← Nat.add_assoc] at hr ⊢
  obtain ⟨t, hrun, hph, hcnt, -⟩ := settle_state hc ha (by omega : k < s.cfg.tSettle) (noReset_mono hr (by omega))
  have hcfg := (runs_inputs hrun).1
  have hm : PhaseMove t (enterPhase .ack1 (clearDone t)) := .settled hph (by rw [hcnt, hcfg, hk, Nat.add_comm])
  exact ⟨_, runs_snoc hrun (hm.step_eq (noReset_of_runs hrun hr 0 Nat.zero_lt_one)), rfl, rfl⟩

end

/-- Settles O32: two phases of fixed length, in the first of which the block drives the line. -/
theorem startPulseAndSettle : Obligations.StartPulseAndSettle := by
  intro s q pin hc ha hr
  refine ⟨fun k h1 hk => ?_, fun k h1 hk => ?_, settle_end hc ha hr⟩
  · obtain ⟨j, rfl⟩ := Nat.exists_eq_add_of_le h1
    obtain ⟨t, hrun, hph, hcnt, -, hlow⟩ :=
      pulse_state hc ha (by omega : j < s.cfg.tStart) (noReset_mono hr (by omega))
    exact ⟨t, hrun, hph, by omega, hlow, (lineLevel t pin).1 hlow⟩
  · obtain ⟨j, rfl⟩ := Nat.exists_eq_add_of_le h1
    obtain ⟨t, hrun, hph, hcnt, hrel⟩ :=
      settle_state hc ha (by omega : j < s.cfg.tSettle) (noReset_mono hr (by omega))
    rw [← Nat.add_assoc]
    exact ⟨t, hrun, hph, by omega, hrel⟩

/-! ## The unbounded build (R66, R101) -/

/-- Every phase that awaits a level is one of the four waits. -/
theorem isWait_of_awaited {c : Config} {p : Phase} {v : Level} (h : awaited c p = some v) :
    ∃ f p', IsWait c p v f p' := by
  cases p <;> cases h
  case ack1 => exact ⟨_, _, .ack1⟩
  case ack2 => exact ⟨_, _, .ack2⟩
  case bitw1 => exact ⟨_, _, .bitw1⟩
  case bitw2 => exact ⟨_, _, .bitw2⟩

/-- R66: one step of an unbounded wait whose level is not there. -/
theorem step_of_unbounded_miss {s : State} {v : Level} (hb : s.cfg.bounded = false) (hv : awaited s.cfg s.ph = some v)
    (hpin : s.pin.toNat < s.cfg.nPins) (hrel : lineBit s.oeLow s.pin = false) (hr : (s.hostAt 0).rst = false)
    (hmiss : s.sensAt 0 s.pin ≠ v) : step s = .next (advance (clearDone s)) := by
  obtain ⟨f, p, hw⟩ := isWait_of_awaited hv
  have hl : lineRead s.pin s ≠ v := by simpa [lineRead_eq, hrel] using hmiss
  exact (PhaseMove.stayed hw hpin hl hb).step_eq hr

/-- Settles O47: each step of the wait changes nothing but DONE and the inputs, so that the next one is such a step
too. -/
theorem unboundedWaitHangs : Obligations.UnboundedWaitHangs := by
  intro s v k hb hv hpin hrel hr hmiss
  induction k generalizing s with
  | zero => exact ⟨s, (runs_zero s s).mpr rfl, fun h => absurd h (by decide), rfl⟩
  | succ k ih =>
    have hst := step_of_unbounded_miss hb hv hpin hrel (hr 0 (by omega)) (hmiss 0 (by omega))
    obtain ⟨t, hrun, hdone, heq⟩ := ih (advance (clearDone s)) hb hv hpin hrel
      (fun i hi => by rw [hostAt_advance]; exact hr (i + 1) (by omega))
      (fun i hi => by rw [sensAt_advance]; exact hmiss (i + 1) (by omega))
    refine ⟨t, (runs_succ k s t).mpr ⟨_, hst, hrun⟩, fun _ => ?_, heq⟩
    cases k with
    | zero => obtain rfl := (runs_zero _ t).mp hrun; rfl
    | succ k => exact hdone (by omega)

/-- A wait times out in a bounded build only (R66). -/
theorem not_timesOut_of_unbounded {s : State} (hb : s.cfg.bounded = false) : ¬ Claims.TimesOut s :=
  fun ⟨_, _, _, hb', _⟩ => absurd (hb'.symm.trans hb) (by decide)

namespace PhaseMove

variable {s u : State}

/-- ACK_TO is set by a timeout only (R24). -/
theorem ackTo_of_not_timesOut (hm : PhaseMove s u) (hto : ¬ Claims.TimesOut s) (h : u.ackTo = true) :
    s.ackTo = true := by
  by_contra hs
  obtain ⟨-, -, hlow⟩ | ⟨-, hout, -⟩ := hm.ackTo_writer fun e => hs (e ▸ h)
  · exact absurd (h.symm.trans hlow) (by decide)
  · exact hto hout

/-- BIT_TO is set by a timeout only (R25). -/
theorem bitTo_of_not_timesOut (hm : PhaseMove s u) (hto : ¬ Claims.TimesOut s) (h : u.bitTo = true) :
    s.bitTo = true := by
  by_contra hs
  obtain ⟨-, -, hlow⟩ | ⟨-, hout, -⟩ := hm.bitTo_writer fun e => hs (e ▸ h)
  · exact absurd (h.symm.trans hlow) (by decide)
  · exact hto hout

end PhaseMove

/-- Settles O48: a reset clears both flags, and a move sets one by a timeout only. -/
theorem unboundedSetsNoFlag : Obligations.UnboundedSetsNoFlag := by
  intro s t hb hst
  obtain ⟨-, rfl⟩ | ⟨-, u, hm, rfl⟩ := step_moves hst
  · simp
  · have hto := not_timesOut_of_unbounded hb
    exact ⟨hm.ackTo_of_not_timesOut hto, hm.bitTo_of_not_timesOut hto⟩

/-! ## The two variants side by side (R66) -/

/-- The build `c` with or without the bound, the bound and the counter width being `n` and `w`. -/
def variantOf (c : Config) (b : Bool) (n w : Nat) : Config := { c with bounded := b, tTimeout := n, cntW := w }

/-- A variant is legal if its counter holds its bound and what it held before (R4). -/
theorem variantOf_legal {c : Config} {n w : Nat} (hc : c.Legal) (b : Bool) (hpos : 1 ≤ n) (hfit : n ≤ 2 ^ w)
    (hw : c.cntW ≤ w) : (variantOf c b n w).Legal := by
  have hpow : 2 ^ c.cntW ≤ 2 ^ w := Nat.pow_le_pow_right (by decide) hw
  exact ⟨hc.start_pos, hc.settle_pos, hpos, hc.sample_pos, hc.pins_pos, hc.pins_le, hc.start_fits.trans hpow,
    hc.settle_fits.trans hpow, hfit, hc.sample_fits.trans hpow⟩

/-- An unbounded build is its own unbounded variant. -/
theorem variantOf_self {c : Config} (hb : c.bounded = false) : variantOf c false c.tTimeout c.cntW = c := by
  rw [← hb]
  rfl

/-- `s` as an unbounded build of bound `n` (which it does not read) and counter width `w` sees it: its waits do not
count. For the bound and the width of `s` itself this is `Claims.unboundedView`. -/
def State.untimed (s : State) (n w : Nat) : State :=
  { s with cfg := variantOf s.cfg false n w, cnt := if (awaited s.cfg s.ph).isSome then 0 else s.cnt }

section
variable {s u : State} {n w : Nat}

theorem untimed_cnt_of_fixed {p : Phase} (hph : s.ph = p) (h : awaited s.cfg p = none) :
    (s.untimed n w).cnt = s.cnt := by
  simp [State.untimed, hph, h]

/-- The waits of the two variants have the same levels, flags and next phases. -/
theorem IsWait.untimed {v : Level} {f : TimeoutFlag} {p : Phase} (h : IsWait s.cfg s.ph v f p) :
    IsWait (s.untimed n w).cfg (s.untimed n w).ph v f p := by
  change IsWait _ s.ph v f p
  generalize s.ph = p' at h
  cases h <;> constructor

theorem enterPhase_untimed (p : Phase) : (enterPhase p s).untimed n w = enterPhase p (s.untimed n w) := by
  cases p <;> rfl

/-- A wait that counts and one that does not look the same without the count. -/
theorem countUp_untimed_of_awaited {v : Level} (h : awaited s.cfg s.ph = some v) :
    (countUp s).untimed n w = s.untimed n w := by
  simp [State.untimed, countUp, h]

/-- The other phases count alike, as long as the count fits both counters. -/
theorem countUp_untimed_of_fixed (h : awaited s.cfg s.ph = none) (hfit : s.cnt + 1 < 2 ^ s.cfg.cntW)
    (hfit' : s.cnt + 1 < 2 ^ w) : (countUp s).untimed n w = countUp (s.untimed n w) := by
  simp [State.untimed, variantOf, countUp, h, Nat.mod_eq_of_lt hfit, Nat.mod_eq_of_lt hfit']

/-- A phase of fixed length counts in both variants (R59, R60, R67). -/
theorem PhaseMove.counted_untimed (hph : s.ph = .start ∨ s.ph = .settle ∨ s.ph = .bitdly)
    (hne : s.cnt + 1 ≠ cntBound s.cfg s.ph) (hc : s.cfg.Legal) (hc' : (s.untimed n w).cfg.Legal)
    (hlt : s.cnt < cntBound s.cfg s.ph) : PhaseMove (s.untimed n w) ((countUp (clearDone s)).untimed n w) := by
  have hfixed : awaited s.cfg s.ph = none := by obtain e | e | e := hph <;> rw [e] <;> rfl
  have hbound : cntBound (s.untimed n w).cfg s.ph = cntBound s.cfg s.ph := by
    obtain e | e | e := hph <;> rw [e] <;> rfl
  have hfit : s.cnt + 1 < 2 ^ s.cfg.cntW := lt_of_lt_of_le (by omega) (cntBound_legal hc s.ph).2
  have hfit' : s.cnt + 1 < 2 ^ w := lt_of_lt_of_le (by omega) (hbound ▸ (cntBound_legal hc' s.ph).2)
  rw [countUp_untimed_of_fixed (s := clearDone s) hfixed hfit hfit']
  refine .counted (s := s.untimed n w) hph ?_
  rw [untimed_cnt_of_fixed rfl hfixed]
  exact hbound ▸ hne

/-- A move that is no timeout is a move of the unbounded variant too. -/
theorem PhaseMove.untimed (hm : PhaseMove s u) (hc : s.cfg.Legal) (hc' : (s.untimed n w).cfg.Legal)
    (hlt : s.cnt < cntBound s.cfg s.ph) (hto : ¬ Claims.TimesOut s) : PhaseMove (s.untimed n w) (u.untimed n w) := by
  cases hm with
  | ignored hph hw => exact .ignored (s := s.untimed n w) hph hw
  | accepted q hph hq hv hpin => exact .accepted (s := s.untimed n w) q hph hq hv hpin
  | released hph hend hpin =>
    exact .released (s := s.untimed n w) hph (by rw [untimed_cnt_of_fixed hph rfl]; exact hend) hpin
  | settled hph hend => exact .settled (s := s.untimed n w) hph (by rw [untimed_cnt_of_fixed hph rfl]; exact hend)
  | counted hph hne => exact counted_untimed hph hne hc hc' hlt
  | observed hw hpin hl =>
    rw [enterPhase_untimed]
    exact .observed (s := s.untimed n w) hw.untimed hpin hl
  | timedOut hw hpin hl hb hend => exact absurd ⟨_, hw.awaited_eq, hl, hb, hend⟩ hto
  | missed hw hpin hl hb hend =>
    rw [countUp_untimed_of_awaited (s := clearDone s) hw.awaited_eq]
    exact .stayed (s := s.untimed n w) hw.untimed hpin hl rfl
  | stayed hw hpin hl hb => exact .stayed (s := s.untimed n w) hw.untimed hpin hl rfl
  | sampledLast hph hend hpin hi =>
    exact .sampledLast (s := s.untimed n w) hph (by rw [untimed_cnt_of_fixed hph rfl]; exact hend) hpin hi
  | sampledMore hph hend hpin hi =>
    exact .sampledMore (s := s.untimed n w) hph (by rw [untimed_cnt_of_fixed hph rfl]; exact hend) hpin hi
  | finished hph => exact .finished (s := s.untimed n w) hph

end

/-- Settles O50: reset does not see the variant, and a move that is no timeout is a move of both. -/
theorem variantsAgree : Obligations.VariantsAgree := by
  intro s t hinv hb hnot hst
  have hto : ¬ Claims.TimesOut s := fun ⟨v, hv, hl, _, hend⟩ => absurd ((hnot v hv).resolve_left hl) (by omega)
  obtain ⟨hr, rfl⟩ | ⟨hr, u, hm, rfl⟩ := step_moves hst
  · exact if_pos hr
  · have hlegal := variantOf_legal hinv.legal false hinv.legal.timeout_pos hinv.legal.timeout_fits le_rfl
    have hview : Claims.unboundedView u = u.untimed s.cfg.tTimeout s.cfg.cntW := by rw [← hm.sameInputs.cfg]; rfl
    calc step (Claims.unboundedView s)
      _ = .next (advance (u.untimed s.cfg.tTimeout s.cfg.cntW)) :=
        (hm.untimed hinv.legal hlegal hinv.cnt_lt hto).step_eq hr
      _ = .next (Claims.unboundedView (advance u)) := by rw [← hview]; rfl

/-! ## A call whose waits all end (R66, R98)

With a bound that no wait of the call reaches, the bounded variant runs on R98's schedule and raises no flag, and the
unbounded build runs beside it step by step. -/

section
variable {c : Config} {L : Nat → Level}

/-- The recurrence reads neither `BOUNDED` nor `CNT_W` (R98). -/
theorem bitStart_variantOf (b : Bool) (n w a i : Nat) :
    bitStart (variantOf c b n w) L a i = bitStart { c with tTimeout := n } L a i := by
  induction i with
  | zero => rfl
  | succ i ih => rw [bitStart, ih]; rfl

theorem bitHigh_variantOf (b : Bool) (n w a i : Nat) :
    bitHigh (variantOf c b n w) L a i = bitHigh { c with tTimeout := n } L a i := by
  rw [bitHigh, bitStart_variantOf]; rfl

theorem bitSample_variantOf (b : Bool) (n w a i : Nat) :
    bitSample (variantOf c b n w) L a i = bitSample { c with tTimeout := n } L a i := by
  rw [bitSample, bitFall, bitHigh_variantOf]; rfl

theorem finishAt_variantOf (b : Bool) (n w a : Nat) :
    finishAt (variantOf c b n w) L a = finishAt { c with tTimeout := n } L a := by
  rw [finishAt, bitSample_variantOf]; rfl

theorem bitTimesOut_variantOf (b : Bool) (n w a : Nat) :
    bitTimesOut (variantOf c b n w) L a = bitTimesOut { c with tTimeout := n } L a := by
  simp only [bitTimesOut, bitStart_variantOf, bitHigh_variantOf]
  rfl

theorem cell_capture {a i : Nat} (hi : i < 40) : cell (capture c L a) i = L (bitSample c L a i) := by
  simp [cell, capture, hi]

/-- A wait that sees its level has a sample. -/
theorem timeout_pos_of_ackTimesOut {a : Nat} (h : ackTimesOut c L a = false) : 1 ≤ c.tTimeout := by
  by_contra hpos
  have hzero : c.tTimeout = 0 := by omega
  simp [ackTimesOut, waitTimesOut, hzero, firstAt] at h

/-- A search among failed samples finds nothing. -/
theorem firstAt_eq_none {v : Level} {n e : Nat} (hmiss : ∀ i, i < n → L (e + i) ≠ v) : firstAt L v n e = none :=
  firstAt_add hmiss 0

/-- When no flag is due, no wait of the call times out (R98). -/
theorem IsWait.waitTimesOut_eq {p p' : Phase} {v : Level} {f : TimeoutFlag} {i : Nat} (hw : IsWait c p v f p')
    (hack : ackTimesOut c L 0 = false) (hbit : bitTimesOut c L 0 = false) (hi : i < 40) :
    waitTimesOut c L v (phaseBegin c L i p) = false := by
  have hacks := Bool.or_eq_false_iff.mp hack
  have hbits := Bool.or_eq_false_iff.mp (Bool.not_eq_true _ ▸ List.any_eq_false.mp hbit i (List.mem_range.mpr hi))
  cases hw with
  | ack1 => exact hacks.1
  | ack2 => exact hacks.2
  | bitw1 => exact hbits.1
  | bitw2 => exact hbits.2

namespace Scheduled

variable {pin : PinNo} {k : Nat} {t : State}

/-- A wait of the call whose last sample fails times out in R98's sense. -/
theorem waitTimesOut_of_miss {v : Level} {f : TimeoutFlag} {p : Phase} (h : Scheduled c L pin k t)
    (hw : IsWait c t.ph v f p) (hl : L k ≠ v) (hend : c.tTimeout ≤ t.cnt + 1) :
    waitTimesOut c L v (phaseBegin c L t.bitidx.toNat t.ph) = true := by
  have hnone : firstAt L v c.tTimeout (phaseBegin c L t.bitidx.toNat t.ph) = none := firstAt_eq_none fun i hi => by
    obtain hi | rfl : i < t.cnt ∨ i = t.cnt := by omega
    · exact h.missed v hw.awaited_eq i hi
    · exact h.on_time ▸ hl
  simp [waitTimesOut, hnone]

/-- When no flag is due, no step of the call is a timeout. -/
theorem not_timesOut (h : Scheduled t.cfg L pin k t) (hL : t.sensAt 0 pin = L k) (hack : ackTimesOut t.cfg L 0 = false)
    (hbit : bitTimesOut t.cfg L 0 = false) : ¬ Claims.TimesOut t := by
  rintro ⟨v, hv, hl, -, hend⟩
  obtain ⟨f, p, hw⟩ := isWait_of_awaited hv
  rw [h.line_eq hw.ne_start, hL] at hl
  have hout := h.waitTimesOut_of_miss hw hl hend
  exact absurd (hout.symm.trans (hw.waitTimesOut_eq hack hbit (Nat.lt_succ_of_le h.bitidx_le))) (by decide)

end Scheduled

end

/-- The bounded variant of `s` with the bound `n`, its counter wide enough for it. -/
def State.timed (s : State) (n : Nat) : State := { s with cfg := variantOf s.cfg true n (s.cfg.cntW + n) }

section
variable {s : State} {q : Quantity} {pin : PinNo} {n : Nat}

theorem timed_legal (hc : s.cfg.Legal) (hn : 1 ≤ n) : (s.timed n).cfg.Legal := by
  refine variantOf_legal hc true hn ?_ (Nat.le_add_right _ _)
  calc n
    _ ≤ 2 ^ n := Nat.lt_two_pow_self.le
    _ ≤ 2 ^ (s.cfg.cntW + n) := Nat.pow_le_pow_right (by decide) (Nat.le_add_left _ _)

theorem accepts_timed (ha : Accepts s q pin) : Accepts (s.timed n) q pin := ⟨ha.idle, ha.valid, ha.word, ha.line⟩

/-- The unbounded view of the bounded variant has the build's own parameters. -/
theorem untimed_cfg_of_timed {t : State} (hb : s.cfg.bounded = false) (hcfg : t.cfg = (s.timed n).cfg) :
    (t.untimed s.cfg.tTimeout s.cfg.cntW).cfg = s.cfg := by
  change variantOf t.cfg false s.cfg.tTimeout s.cfg.cntW = s.cfg
  rw [hcfg]
  exact variantOf_self hb

/-- Both variants accept alike. -/
theorem accept_timed_untimed (hb : s.cfg.bounded = false) (q : Quantity) (pin : PinNo) :
    (advance (accept q pin (clearDone (s.timed n)))).untimed s.cfg.tTimeout s.cfg.cntW =
      advance (accept q pin (clearDone s)) := by
  change { advance (accept q pin (clearDone s)) with cfg := variantOf s.cfg false s.cfg.tTimeout s.cfg.cntW } = _
  rw [variantOf_self hb]
  rfl

/-- Every state of the call up to its FINISH step: the bounded variant reaches it without a flag, and the unbounded
build reaches its unbounded view. -/
theorem unbounded_call_state (hc : s.cfg.Legal) (hb : s.cfg.bounded = false) (ha : Accepts s q pin) (hn : 1 ≤ n)
    (hack : ackTimesOut (s.timed n).cfg (levelFrom s pin) 0 = false)
    (hbit : bitTimesOut (s.timed n).cfg (levelFrom s pin) 0 = false)
    (hr : NoReset s (finishAt (s.timed n).cfg (levelFrom s pin) 0)) (k : Nat)
    (hk : k + 1 ≤ finishAt (s.timed n).cfg (levelFrom s pin) 0) :
    ∃ t, Runs (k + 1) (s.timed n) t ∧ Runs (k + 1) s (t.untimed s.cfg.tTimeout s.cfg.cntW) ∧
      t.ackTo = false ∧ t.bitTo = false := by
  have hc' := timed_legal hc hn
  have ha' : Accepts (s.timed n) q pin := accepts_timed ha
  induction k with
  | zero =>
    refine ⟨_, runs_snoc ((runs_zero _ _).mpr rfl) (step_of_accepts ha' (hr 0 hk)), ?_, rfl, rfl⟩
    rw [accept_timed_untimed hb]
    exact runs_snoc ((runs_zero s s).mpr rfl) (step_of_accepts ha (hr 0 hk))
  | succ k ih =>
    obtain ⟨t, hrun, hrun', hackTo, hbitTo⟩ := ih (by omega)
    obtain ⟨t', hrunt, hsched, -⟩ := call_state hc' rfl ha' hr k (Nat.le_of_succ_le hk)
    obtain rfl := runs_unique hrun hrunt
    obtain ⟨hcfg, hhost, hsens⟩ := runs_inputs hrun
    have hr0 : (t.hostAt 0).rst = false := hhost 0 ▸ hr (k + 1) hk
    have hline : t.pin.toNat < t.cfg.nPins := by rw [hsched.pin_eq, hcfg]; exact ha.line
    obtain ⟨u, hm, hst⟩ := step_goes_on hr0 hline (Nat.lt_succ_of_le hsched.bitidx_le)
    change Scheduled (s.timed n).cfg (levelFrom s pin) pin (k + 1) t at hsched
    rw [← hcfg] at hsched hack hbit hc'
    have hto := hsched.not_timesOut (hsens 0 pin) hack hbit
    have hview := untimed_cfg_of_timed hb hcfg
    have hst' := (hm.untimed hc' (hview ▸ hc) hsched.cnt_lt hto).step_eq hr0
    refine ⟨advance u, runs_snoc hrun hst, runs_snoc hrun' hst', ?_, ?_⟩
    · exact eq_false_of_ne_true fun e => by simp [hm.ackTo_of_not_timesOut hto e] at hackTo
    · exact eq_false_of_ne_true fun e => by simp [hm.bitTo_of_not_timesOut hto e] at hbitTo

end

/-- Settles O49: the bounded variant with the bound `T` executes FINISH on time with the captured frame and no flag, and
the unbounded build is then in the unbounded view of its state. -/
theorem unboundedCaptureClosedForm : Obligations.UnboundedCaptureClosedForm := by
  intro s q pin T hc hb ha L c hack hbit hr
  have hpos : 1 ≤ T := timeout_pos_of_ackTimesOut hack
  have hfinish : finishAt (s.timed T).cfg L 0 = finishAt c L 0 := finishAt_variantOf true T (s.cfg.cntW + T) 0
  have hbit' : bitTimesOut (s.timed T).cfg L 0 = false := (bitTimesOut_variantOf true T (s.cfg.cntW + T) 0).trans hbit
  rw [← hfinish] at hr ⊢
  obtain ⟨t, hrun, hrun', hackTo, hbitTo⟩ := unbounded_call_state hc hb ha hpos hack hbit' hr _ le_rfl
  obtain ⟨t', hrunt, hf, hq, hfb, hheld⟩ := call_at_finish (timed_legal hc hpos) rfl (accepts_timed ha) hr
  obtain rfl := runs_unique hrun hrunt
  obtain ⟨t', hrunt, hsched, -⟩ := call_state (timed_legal hc hpos) rfl (accepts_timed ha) hr _ le_rfl
  obtain rfl := runs_unique hrun hrunt
  refine ⟨_, hrun', hf, hq, hsched.pin_eq, fun i hi => ?_, hackTo, hbitTo, hheld.lastH, hheld.lastT, hheld.result⟩
  have hcell : cell t.fb i = L (bitSample (s.timed T).cfg L 0 i) := by
    rw [hfb, cell_capture hi]
    rfl
  exact hcell.trans (congrArg L (bitSample_variantOf true T (s.cfg.cntW + T) 0 i))

end Sys2Proof.Machine

/-! # The end of a call (R68 to R73, R77 to R79)

FINISH is the model's `Call` of the frame in the buffer, so that each statement about FINISH is one about `Call`; and no rule
reads the three flags the call leaves. -/

namespace Sys2Proof.Machine

/-! ## FINISH as `Call` (R54, R68) -/

/-- `s` after the end of a call that returned `r`. -/
def State.returned (s : State) (r : CallResult) : State :=
  { s with
    lastH := r.lastH, lastT := r.lastT, result := r.result, fresh := r.fresh, busy := false, done := true, ph := .idle,
    cnt := 0 }

/-- R68: FINISH goes on from every state, with what `Call` returns for its frame and pair. -/
theorem exec_phFinish (s : State) : exec .phFinish s = .next (s.returned (call s.q s.fb s.lastH s.lastT)) := rfl

/-- R73: FRESH is the verdict. -/
theorem call_fresh_iff (q : Quantity) (fb : FrameBuffer) (h t : Tenths) :
    (call q fb h t).fresh = true ↔ Claims.ChecksumOk fb := validate_iff fb

/-- R72: RESULT is the narrowed report of the pair after the call. -/
theorem call_result (q : Quantity) (fb : FrameBuffer) (h t : Tenths) :
    (call q fb h t).result =
      BitVec.ofNat 16 (report q (call q fb h t).lastH.toNat (call q fb h t).lastT.toNat) := rfl

/-- R78: on a valid frame the call does not depend on the pair before it. -/
theorem call_eq_of_ok {fb : FrameBuffer} (q : Quantity) (h t h' t' : Tenths) (hok : Claims.ChecksumOk fb) :
    call q fb h t = call q fb h' t' := by
  simp only [call, (validate_iff fb).mpr hok, commit, if_true]

/-- The statements' words for the report are the model's (R72). -/
theorem report_eq_reported (q : Quantity) (h t : Nat) : report q h t = Claims.reported q h t := by cases q <;> rfl

/-- Settles O19: the pair, RESULT and FRESH are those of `Call`, and nothing else is written but the end of the call. -/
theorem finishRule : Obligations.FinishRule := by
  intro s
  have hfresh := call_fresh_iff s.q s.fb s.lastH s.lastT
  refine ⟨_, exec_phFinish s, fun hok => ?_, fun hbad => ?_, fun hh ht => ?_, rfl⟩
  · obtain ⟨hhum, htemp⟩ := call_pair_of_ok s.q s.lastH s.lastT hok
    exact ⟨hhum, htemp, hfresh.mpr hok⟩
  · obtain ⟨hhum, htemp⟩ := call_pair_of_not_ok s.q s.lastH s.lastT hbad
    exact ⟨hhum, htemp, eq_false_of_ne_true fun e => hbad (hfresh.mp e)⟩
  · exact (call_result_toNat s.q s.fb hh ht).trans (report_eq_reported s.q _ _)

/-- Settles O36: a committed sum of tenths stands for the rational of its two bytes. -/
theorem updateLaw : Obligations.UpdateLaw := by
  refine fun s => ⟨_, exec_phFinish s, fun hok => ?_, call_pair_of_not_ok s.q s.lastH s.lastT⟩
  obtain ⟨hhum, htemp⟩ := call_pair_of_ok s.q s.lastH s.lastT hok
  have hvalue {v : Tenths} {b b' : Nat} (hv : v.toNat = 10 * b + b') : ofTenths v.toNat = b + b' * (1 / 10) := by
    rw [hv]; exact ofTenths_ten_mul_add b b'
  exact ⟨hvalue hhum, hvalue htemp⟩

/-- Settles O37: on a valid frame the second `Call` is the first but for the quantity, which the pair does not depend
on. -/
theorem finishIdempotent : Obligations.FinishIdempotent := by
  intro s t u hst hok hfb _ _
  obtain rfl : s.returned (call s.q s.fb s.lastH s.lastT) = t := by simpa [exec_phFinish] using hst
  have hcall : call u.q u.fb u.lastH u.lastT = call u.q s.fb s.lastH s.lastT := by
    rw [hfb]; exact call_eq_of_ok u.q _ _ _ _ hok
  refine ⟨_, exec_phFinish u, ?_, ?_, fun hq => ?_⟩ <;> rw [hcall]
  · rfl
  · rfl
  · rw [hq]; rfl

/-! ## Frames whose cells are all alike (R70, R79) -/

section
variable {fb : FrameBuffer}

/-- The frame is its cells. -/
theorem eq_replicate_of_cells {b : Bool} (h : ∀ i, i < 40 → cell fb i = b) : fb = Vector.replicate 40 b :=
  frame_ext fun i hi => (h i hi).trans (by simp [cell, hi])

/-- R70: the all-zero frame is valid. -/
theorem validate_of_cells_false (h : ∀ i, i < 40 → cell fb i = false) : validate (frameBytes fb) = true := by
  rw [eq_replicate_of_cells h]; decide

/-- R70: the all-ones frame is not: `4 * 255` leaves 252. -/
theorem validate_of_cells_true (h : ∀ i, i < 40 → cell fb i = true) : validate (frameBytes fb) = false := by
  rw [eq_replicate_of_cells h]; decide

/-- R79: from the pair 0, an invalid and the all-zero frame leave the pair 0. -/
theorem call_pair_zero (q : Quantity) (h : ¬ Claims.ChecksumOk fb ∨ ∀ i, i < 40 → cell fb i = false) :
    (call q fb 0#12 0#12).lastH = 0#12 ∧ (call q fb 0#12 0#12).lastT = 0#12 := by
  obtain hbad | hzero := h
  · exact call_pair_of_not_ok q 0#12 0#12 hbad
  · rw [eq_replicate_of_cells hzero]; cases q <;> decide

end

/-- Settles O34: the mask is the remainder modulo 256, and the boundary frames are alike in all cells. -/
theorem checksumVerdict : Obligations.ChecksumVerdict := by
  refine fun fb => ⟨?_, validate_of_cells_false, validate_of_cells_true⟩
  have hmask (n : Nat) : n &&& 0xFF = n % 256 := Nat.and_two_pow_sub_one_eq_mod n 8
  rw [hmask]
  exact validate_iff fb

/-- Settles O38: the pair stays 0 on both kinds of frame, RESULT is the report of it, and of these frames only the all-zero
one is valid. -/
theorem firstCall : Obligations.FirstCall := by
  intro s hh ht hframe
  obtain ⟨hhum, htemp⟩ := call_pair_zero s.q hframe
  have hvalid : Claims.ChecksumOk s.fb ↔ ∀ i, i < 40 → cell s.fb i = false :=
    ⟨fun hok => hframe.resolve_left (not_not_intro hok),
      fun hzero => (validate_iff s.fb).mp (validate_of_cells_false hzero)⟩
  have hresult : (call s.q s.fb 0#12 0#12).result = if s.q = .fahrenheit then 3200#16 else 0#16 := by
    rw [call_result, hhum, htemp]
    cases s.q <;> rfl
  refine ⟨_, exec_phFinish s, ?_⟩
  rw [hh, ht]
  exact ⟨hhum, htemp, hresult, (call_fresh_iff s.q s.fb 0#12 0#12).trans hvalid⟩

/-! ## No rule reads the flags (R23 to R25, R73) -/

section
variable {s t u : State}

/-- Replacing the flags leaves every move its guards, and the state it leaves differs in the flags only. -/
theorem PhaseMove.withFlags (hm : PhaseMove s u) (f a b : Bool) :
    ∃ f' a' b', PhaseMove (Claims.withFlags f a b s) (Claims.withFlags f' a' b' u) := by
  cases hm with
  | ignored hph hw => exact ⟨f, a, b, .ignored (s := Claims.withFlags f a b s) hph hw⟩
  | accepted q hph hq hv hpin =>
    exact ⟨false, false, false, .accepted (s := Claims.withFlags f a b s) q hph hq hv hpin⟩
  | released hph hc hpin => exact ⟨f, a, b, .released (s := Claims.withFlags f a b s) hph hc hpin⟩
  | settled hph hc => exact ⟨f, a, b, .settled (s := Claims.withFlags f a b s) hph hc⟩
  | counted hph hc => exact ⟨f, a, b, .counted (s := Claims.withFlags f a b s) hph hc⟩
  | observed hw hpin hl => exact ⟨f, a, b, .observed (s := Claims.withFlags f a b s) hw hpin hl⟩
  | @timedOut v g p hw hpin hl hb hc =>
    have hm' := PhaseMove.timedOut (s := Claims.withFlags f a b s) hw hpin hl hb hc
    cases g with
    | ackTo => exact ⟨f, true, b, hm'⟩
    | bitTo => exact ⟨f, a, true, hm'⟩
  | missed hw hpin hl hb hc => exact ⟨f, a, b, .missed (s := Claims.withFlags f a b s) hw hpin hl hb hc⟩
  | stayed hw hpin hl hb => exact ⟨f, a, b, .stayed (s := Claims.withFlags f a b s) hw hpin hl hb⟩
  | sampledLast hph hc hpin hi => exact ⟨f, a, b, .sampledLast (s := Claims.withFlags f a b s) hph hc hpin hi⟩
  | sampledMore hph hc hpin hi => exact ⟨f, a, b, .sampledMore (s := Claims.withFlags f a b s) hph hc hpin hi⟩
  | finished hph =>
    exact ⟨validate (frameBytes s.fb), a, b, .finished (s := Claims.withFlags f a b s) hph⟩

/-- So does every step that goes on; reset clears the flags whatever they are. -/
theorem step_withFlags (h : step s = .next t) (f a b : Bool) :
    ∃ f' a' b', step (Claims.withFlags f a b s) = .next (Claims.withFlags f' a' b' t) := by
  obtain ⟨hr, rfl⟩ | ⟨hr, u, hm, rfl⟩ := step_moves h
  · exact ⟨false, false, false, if_pos hr⟩
  · obtain ⟨f', a', b', hm'⟩ := hm.withFlags f a b
    exact ⟨f', a', b', hm'.step_eq hr⟩

end

/-- Settles O51, by induction on the length of the run: one step after the other stays the same but for the flags. -/
theorem flagsAreNeverRead : Obligations.FlagsAreNeverRead := by
  intro k
  induction k with
  | zero =>
    intro s t f a b hrun
    obtain rfl := (runs_zero s t).mp hrun
    exact ⟨f, a, b, (runs_zero _ _).mpr rfl⟩
  | succ k ih =>
    intro s t f a b hrun
    obtain ⟨u, hst, hrest⟩ := (runs_succ k s t).mp hrun
    obtain ⟨f₁, a₁, b₁, hst'⟩ := step_withFlags hst f a b
    obtain ⟨f₂, a₂, b₂, hrest'⟩ := ih u t f₁ a₁ b₁ hrest
    exact ⟨f₂, a₂, b₂, (runs_succ k _ _).mpr ⟨_, hst', hrest'⟩⟩

end Sys2Proof.Machine

/-! # No stop from the invariant (R56, R80)

The rules stop only at an absent line or cell (R32, R33). The invariant excludes both and is kept by every step. -/

namespace Sys2Proof.Machine

/-- A state with the invariant has a next state: the reset state, or the state its phase's rule leaves (R56). -/
theorem State.Inv.exists_step {s : State} (h : s.Inv) : ∃ t, step s = .next t := by
  cases hr : s.hostNow.rst with
  | true => exact ⟨_, if_pos hr⟩
  | false =>
    obtain ⟨u, -, hst⟩ := step_goes_on hr h.pin_lt (Nat.lt_succ_of_le h.bitidx_le)
    exact ⟨_, hst⟩

/-- Settles O28, by induction on the length of the run: the next step goes on and leaves a state with the invariant. -/
theorem nothingIsRaised : Obligations.NothingIsRaised := by
  intro s h k
  induction k generalizing s with
  | zero => exact ⟨s, (runs_zero s s).mpr rfl⟩
  | succ k ih =>
    obtain ⟨u, hst⟩ := h.exists_step
    obtain ⟨t, hrun⟩ := ih u (stepKeepsInvariant s u h hst)
    exact ⟨t, (runs_succ k s t).mpr ⟨u, hst, hrun⟩⟩

end Sys2Proof.Machine

/-! # Reset (R92, R93) and the whole call (R96 to R98)

Reset is one equation of the step. The length of a call comes from the bounds of one wait, its flags from a table of the
waits that are over, and the call on a line that never moves from the two pairs of opposite levels it waits for. -/

namespace Sys2Proof.Machine

/-! ## Reset (R92, R93) -/

/-- One step is a run. -/
theorem runs_one {s t : State} (h : step s = .next t) : Runs 1 s t := runs_snoc ((runs_zero s s).mpr rfl) h

/-- Settles O8: reset is the first test of the step. -/
theorem resetWins : Obligations.ResetWins := fun _ hr => if_pos hr

/-- Settles O9, by induction on the number of steps: each of them leaves the reset state, which drives no line. -/
theorem resetHeld : Obligations.ResetHeld := by
  intro s k hr
  have hst := resetWins s (hr 0 (Nat.zero_le k))
  induction k generalizing s with
  | zero =>
    refine ⟨_, runs_one hst, rfl, rfl, fun p => ?_⟩
    simp [lineRead_eq, Claims.nextInputs, Claims.resetOf]
  | succ k ih =>
    have hnext : ∀ i, i ≤ k → ((Claims.nextInputs (Claims.resetOf s)).hostAt i).rst = true := fun i hi => by
      rw [(stepTakesNextInputs s _ hst).2.1]; exact hr (i + 1) (Nat.succ_le_succ hi)
    obtain ⟨t, hrun, hreset, hcfg, hline⟩ := ih _ hnext (resetWins _ (hnext 0 (Nat.zero_le k)))
    exact ⟨t, (runs_succ _ s t).mpr ⟨_, hst, hrun⟩, hreset, hcfg, hline⟩

/-! ## The length of a call (R97) -/

section
variable {c : Config} {L : Nat → Level} {v : Level}

/-- A search finds only what lies among its instants. -/
theorem lt_of_firstAt {k e x : Nat} (h : firstAt L v k e = some x) : x < e + k := by
  induction k generalizing e with
  | zero => simp [firstAt] at h
  | succ k ih =>
    rw [firstAt] at h
    split at h
    · obtain rfl : e = x := by simpa using h
      omega
    · have := ih h
      omega

/-- A wait takes at least one and at most `T_TIMEOUT` samples (R61). -/
theorem waitEnd_bounds (hc : c.Legal) (L : Nat → Level) (v : Level) (e : Nat) :
    e ≤ waitEnd c L v e ∧ waitEnd c L v e < e + c.tTimeout := by
  refine ⟨self_le_waitEnd hc e, ?_⟩
  unfold waitEnd
  cases hfind : firstAt L v c.tTimeout e with
  | none =>
    have := hc.timeout_pos
    simp only [Option.getD_none]; omega
  | some x => exact lt_of_firstAt hfind

/-- The bounds of the two waits of a bit. -/
theorem bitFall_bounds (hc : c.Legal) (L : Nat → Level) (a i : Nat) :
    bitStart c L a i + 1 ≤ bitFall c L a i ∧ bitFall c L a i < bitStart c L a i + 2 * c.tTimeout := by
  obtain ⟨hlow, hlow'⟩ := waitEnd_bounds hc L c.bitw1Level (bitStart c L a i)
  obtain ⟨hfall, hfall'⟩ := waitEnd_bounds hc L c.bitw2Level (bitHigh c L a i + 1)
  simp only [bitFall, bitHigh] at hfall hfall' ⊢
  omega

/-- Bit `i` begins after the acknowledgement and `i` bits, none of which takes less than two waits of one sample or more
than two of `T_TIMEOUT`. -/
theorem bitStart_bounds (hc : c.Legal) (L : Nat → Level) (a i : Nat) :
    ack1Start c a + 2 + i * (2 + c.tSample) ≤ bitStart c L a i ∧
    bitStart c L a i ≤ ack1Start c a + 2 * c.tTimeout + i * (2 * c.tTimeout + c.tSample) := by
  induction i with
  | zero =>
    obtain ⟨hack, hack'⟩ := waitEnd_bounds hc L c.ack1Level (ack1Start c a)
    obtain ⟨hack2, hack2'⟩ := waitEnd_bounds hc L c.ack2Level (ack1End c L a + 1)
    simp only [bitStart, ack2End, ack1End] at hack2 hack2' ⊢
    omega
  | succ i ih =>
    have hbit := bitFall_bounds hc L a i
    have hnext : bitStart c L a (i + 1) = bitFall c L a i + c.tSample + 1 := rfl
    rw [hnext, Nat.succ_mul i (2 + c.tSample), Nat.succ_mul i (2 * c.tTimeout + c.tSample)]
    omega

/-- R97: the bounds of the whole call. -/
theorem finishAt_bounds (hc : c.Legal) (L : Nat → Level) (a : Nat) :
    a + shortestCall c ≤ finishAt c L a + 1 ∧ finishAt c L a + 1 ≤ a + longestCall c := by
  have hstart := bitStart_bounds hc L a 39
  have hbit := bitFall_bounds hc L a 39
  simp only [finishAt, bitSample, shortestCall, longestCall, ack1Start] at hstart ⊢
  omega

end

/-- Settles O43: the bounds of the recurrence, and the values of R4's table put into them. -/
theorem callDuration : Obligations.CallDuration :=
  ⟨fun _ L a hc => finishAt_bounds hc L a, by decide, by decide, by decide, by decide, by decide⟩

/-! ## The timeout flags of a call (R24, R25, R98) -/

section
variable {c : Config} {L : Nat → Level} {s t u : State} {q : Quantity} {pin : PinNo} {k : Nat}

/-- The timeout flag `f` of a state. -/
def State.flag (s : State) : TimeoutFlag → Bool
  | .ackTo => s.ackTo
  | .bitTo => s.bitTo

@[simp] theorem flag_raiseFlag (f g : TimeoutFlag) (s : State) :
    (raiseFlag f s).flag g = (s.flag g || decide (f = g)) := by
  cases f <;> cases g <;> simp [State.flag]

@[simp] theorem flag_clearDone (f : TimeoutFlag) (s : State) : (clearDone s).flag f = s.flag f := by cases f <;> rfl

@[simp] theorem flag_enterPhase (f : TimeoutFlag) (p : Phase) (s : State) : (enterPhase p s).flag f = s.flag f := by
  cases f <;> rfl

/-- Whether some wait of the first `n` bits times out (R98). -/
def bitsTimeOut (c : Config) (L : Nat → Level) (n : Nat) : Bool :=
  (List.range n).any fun i =>
    waitTimesOut c L c.bitw1Level (bitStart c L 0 i) || waitTimesOut c L c.bitw2Level (bitHigh c L 0 i + 1)

theorem bitsTimeOut_succ (c : Config) (L : Nat → Level) (n : Nat) :
    bitsTimeOut c L (n + 1) = (bitsTimeOut c L n ||
      (waitTimesOut c L c.bitw1Level (bitStart c L 0 n) || waitTimesOut c L c.bitw2Level (bitHigh c L 0 n + 1))) := by
  simp [bitsTimeOut, List.range_succ]

/-- What R98's waits make of each flag by the time phase `p` of bit `i` begins. -/
def flagDue (c : Config) (L : Nat → Level) (i : Nat) : TimeoutFlag → Phase → Bool
  | .ackTo, .idle | .ackTo, .start | .ackTo, .settle | .ackTo, .ack1 => false
  | .ackTo, .ack2 => waitTimesOut c L c.ack1Level (ack1Start c 0)
  | .ackTo, .bitw1 | .ackTo, .bitw2 | .ackTo, .bitdly | .ackTo, .finish => ackTimesOut c L 0
  | .bitTo, .idle | .bitTo, .start | .bitTo, .settle | .bitTo, .ack1 | .bitTo, .ack2 => false
  | .bitTo, .bitw1 => bitsTimeOut c L i
  | .bitTo, .bitw2 => bitsTimeOut c L i || waitTimesOut c L c.bitw1Level (bitStart c L 0 i)
  | .bitTo, .bitdly | .bitTo, .finish => bitsTimeOut c L (i + 1)

/-- The end of a wait adds its own verdict to its own flag. -/
theorem IsWait.flagDue_next {p p' : Phase} {v : Level} {f : TimeoutFlag} {i : Nat} (hw : IsWait c p v f p')
    (hzero : beforeLoop p = true → i = 0) (g : TimeoutFlag) :
    flagDue c L i g p' = (flagDue c L i g p || (decide (f = g) && waitTimesOut c L v (phaseBegin c L i p))) := by
  cases hw with
  | ack1 => cases g <;> simp [flagDue, phaseBegin]
  | ack2 =>
    rw [hzero rfl]
    cases g
    · rfl
    · rfl
  | bitw1 => cases g <;> simp [flagDue, phaseBegin]
  | bitw2 => cases g <;> simp [flagDue, phaseBegin, bitsTimeOut_succ, Bool.or_assoc]

/-- The two flags of `t` tell which of the waits before it timed out. -/
def FlagsOnTime (c : Config) (L : Nat → Level) (t : State) : Prop :=
  ∀ f, t.flag f = flagDue c L t.bitidx.toNat f t.ph

/-- A wait whose level comes in time does not time out in R98's sense. -/
theorem Scheduled.waitTimesOut_of_seen {v : Level} {f : TimeoutFlag} {p : Phase} (h : Scheduled c L pin k t)
    (hb : c.bounded = true) (hw : IsWait c t.ph v f p) (hl : L k = v) :
    waitTimesOut c L v (phaseBegin c L t.bitidx.toNat t.ph) = false := by
  have hlt : t.cnt < c.tTimeout := by simpa [hw.cntBound_eq, hb] using h.cnt_lt
  obtain ⟨j, hj⟩ : ∃ j, c.tTimeout = t.cnt + (j + 1) := ⟨c.tTimeout - t.cnt - 1, by omega⟩
  unfold waitTimesOut
  rw [hj, firstAt_add (h.missed v hw.awaited_eq), firstAt, if_pos (h.on_time ▸ hl)]
  rfl

namespace FlagsOnTime

theorem of_accept (q : Quantity) (pin : PinNo) (s : State) : FlagsOnTime c L (accept q pin s) := fun f => by
  cases f <;> rfl

/-- A move that ends no wait and after which the same waits are over. -/
theorem congr (h : FlagsOnTime c L t) (hack : u.ackTo = t.ackTo) (hbit : u.bitTo = t.bitTo)
    (hdue : ∀ f, flagDue c L u.bitidx.toNat f u.ph = flagDue c L t.bitidx.toNat f t.ph) : FlagsOnTime c L u := by
  intro f
  have hflag : u.flag f = t.flag f := by cases f; exacts [hack, hbit]
  rw [hflag, h f, hdue]

/-- The end of a wait, where its verdict is what is added to its flag. -/
theorem leaveWait {v : Level} {f : TimeoutFlag} {p : Phase} (h : FlagsOnTime c L t) (hsched : Scheduled c L pin k t)
    (hw : IsWait c t.ph v f p) (hph : u.ph = p) (hbit : u.bitidx = t.bitidx)
    (hflag : ∀ g, u.flag g =
      (t.flag g || (decide (f = g) && waitTimesOut c L v (phaseBegin c L t.bitidx.toNat t.ph)))) :
    FlagsOnTime c L u := by
  intro g
  have hzero : beforeLoop t.ph = true → t.bitidx.toNat = 0 := fun e => by rw [hsched.bitidx_zero e]; rfl
  rw [hflag, h g, hph, hbit, hw.flagDue_next hzero]

/-- Each move of a call before FINISH sets the flags R98 says. -/
theorem move (h : FlagsOnTime t.cfg L t) (hsched : Scheduled t.cfg L pin k t) (hb : t.cfg.bounded = true)
    (hL : t.sensAt 0 pin = L k) (hf : t.ph ≠ .finish) (hm : PhaseMove t u) : FlagsOnTime t.cfg L u := by
  cases hm with
  | ignored hph _ => exact absurd hph hsched.in_call
  | accepted q hph _ _ _ => exact absurd hph hsched.in_call
  | finished hph => exact absurd hph hf
  | released hph _ _ => exact h.congr rfl rfl fun f => by cases f <;> simp [hph, flagDue]
  | settled hph _ => exact h.congr rfl rfl fun f => by cases f <;> simp [hph, flagDue]
  | counted _ _ => exact h.congr rfl rfl fun _ => rfl
  | missed _ _ _ _ _ => exact h.congr rfl rfl fun _ => rfl
  | stayed _ _ _ hu => exact absurd (hb.symm.trans hu) (by decide)
  | observed hw _ hl =>
    rw [hsched.line_eq hw.ne_start, hL] at hl
    exact h.leaveWait hsched hw rfl rfl fun g => by simp [hsched.waitTimesOut_of_seen hb hw hl]
  | timedOut hw _ hl _ hend =>
    rw [hsched.line_eq hw.ne_start, hL] at hl
    exact h.leaveWait hsched hw rfl (by simp) fun g => by simp [hsched.waitTimesOut_of_miss hw hl hend]
  | sampledLast hph _ _ _ => exact h.congr rfl rfl fun f => by cases f <;> simp [hph, flagDue]
  | sampledMore hph _ _ hi =>
    exact h.congr rfl rfl fun f => by cases f <;> simp [hph, flagDue, toNat_bitidx_succ hi]

theorem advance (h : FlagsOnTime c L t) : FlagsOnTime c L (advance t) := h.congr rfl rfl fun _ => rfl

/-- At FINISH the flags are the ones R98 gives. -/
theorem eq_of_finish (h : FlagsOnTime c L t) (hf : t.ph = .finish) (hi : t.bitidx = 39#6) :
    t.ackTo = ackTimesOut c L 0 ∧ t.bitTo = bitTimesOut c L 0 := by
  have hack := h .ackTo
  have hbit := h .bitTo
  rw [hf, hi] at hack hbit
  exact ⟨hack, hbit⟩

end FlagsOnTime

/-- R98: the line and the two flags of the state in which FINISH executes. -/
theorem flags_at_finish (hc : s.cfg.Legal) (hb : s.cfg.bounded = true) (ha : Accepts s q pin)
    (hr : NoReset s (finishAt s.cfg (levelFrom s pin) 0)) :
    ∃ t, Runs (finishAt s.cfg (levelFrom s pin) 0) s t ∧ t.pin = pin ∧
      t.ackTo = ackTimesOut s.cfg (levelFrom s pin) 0 ∧ t.bitTo = bitTimesOut s.cfg (levelFrom s pin) 0 := by
  obtain ⟨t, hrun, hsched, -⟩ := call_state hc hb ha hr _ le_rfl
  obtain ⟨t', hrun', hflags⟩ : ∃ t, Runs _ s t ∧ FlagsOnTime s.cfg (levelFrom s pin) t := by
    refine call_keeps hc hb ha hr (FlagsOnTime.of_accept q pin _).advance
      (fun k t u hsched hcfg hL hf hm h => ?_) _ le_rfl
    rw [← hcfg] at hsched h hb ⊢
    exact (h.move hsched hb hL hf hm).advance
  obtain rfl := runs_unique hrun hrun'
  have hf := hsched.finish_on_time hc hb
  exact ⟨t, hrun, hsched.pin_eq, hflags.eq_of_finish hf (hsched.bitidx_last hf)⟩

end

/-- Settles O39: the frame and the held outputs at FINISH are those of `call_at_finish`, the flags are tracked along the
same run. -/
theorem captureClosedForm : Obligations.CaptureClosedForm := by
  intro s q pin hc hb ha L hr
  obtain ⟨u, hrun, hf, hq, hfb, hheld⟩ := call_at_finish hc hb ha hr
  obtain ⟨u', hrun', hpin, hack, hbit⟩ := flags_at_finish hc hb ha hr
  obtain rfl := runs_unique hrun hrun'
  exact ⟨u, hrun, hf, hq, hpin, fun i hi => hfb ▸ cell_capture hi, hack, hbit, hheld.lastH, hheld.lastT,
    hheld.result⟩

/-! ## Every call ends (R97) -/

section
variable {c : Config} {s u : State}

/-- The longest that a bounded call can go on after BITDLY of bit `i`, in steps: the bits that remain, and FINISH. -/
def stepsAfterBit (c : Config) (i : Nat) : Nat := (39 - i) * (2 * c.tTimeout + c.tSample) + 1

theorem stepsAfterBit_succ (c : Config) {i : Nat} (hi : i < 39) :
    stepsAfterBit c i = 2 * c.tTimeout + c.tSample + stepsAfterBit c (i + 1) := by
  have hbits : 39 - i = 39 - (i + 1) + 1 := by omega
  rw [stepsAfterBit, stepsAfterBit, hbits, Nat.succ_mul]
  omega

theorem stepsAfterBit_le (c : Config) (i : Nat) : stepsAfterBit c i ≤ stepsAfterBit c 0 :=
  Nat.succ_le_succ (Nat.mul_le_mul_right _ (Nat.sub_le 39 i))

/-- The longest that a bounded call can go on after phase `p` of bit `i`, in steps. -/
def stepsAfter (c : Config) (i : Nat) : Phase → Nat
  | .idle | .finish => 0
  | .start => c.tSettle + 4 * c.tTimeout + c.tSample + stepsAfterBit c i
  | .settle => 4 * c.tTimeout + c.tSample + stepsAfterBit c i
  | .ack1 => 3 * c.tTimeout + c.tSample + stepsAfterBit c i
  | .ack2 => 2 * c.tTimeout + c.tSample + stepsAfterBit c i
  | .bitw1 => c.tTimeout + c.tSample + stepsAfterBit c i
  | .bitw2 => c.tSample + stepsAfterBit c i
  | .bitdly => stepsAfterBit c i

/-- The longest that the call of a bounded build in state `s` can go on, in steps (R97). -/
def stepsLeft (s : State) : Nat := cntBound s.cfg s.ph - s.cnt + stepsAfter s.cfg s.bitidx.toNat s.ph

/-- The phase after a wait takes its part of what is left after the wait. -/
theorem IsWait.stepsAfter_next {p p' : Phase} {v : Level} {f : TimeoutFlag} (hw : IsWait c p v f p')
    (hb : c.bounded = true) (i : Nat) : cntBound c p' + stepsAfter c i p' = stepsAfter c i p := by
  cases hw <;> simp only [stepsAfter, cntBound, hb, if_true] <;> omega

/-- Entering a phase that was still to come leaves less to do. -/
theorem stepsLeft_lt_of_enter (hlt : s.cnt < cntBound s.cfg s.ph) (hcfg : u.cfg = s.cfg) (hcnt : u.cnt = 0)
    (hnext : cntBound s.cfg u.ph + stepsAfter s.cfg u.bitidx.toNat u.ph = stepsAfter s.cfg s.bitidx.toNat s.ph) :
    stepsLeft u < stepsLeft s := by
  rw [stepsLeft, stepsLeft, hcfg, hcnt]
  omega

/-- So does counting below the bound of the phase. -/
theorem stepsLeft_countUp_lt (hinv : s.Inv) (hlt : s.cnt + 1 < cntBound s.cfg s.ph) :
    stepsLeft (countUp (clearDone s)) < stepsLeft s := by
  have hcnt : (countUp (clearDone s)).cnt = s.cnt + 1 :=
    countUp_cnt_of_lt (hlt.trans_le (cntBound_legal hinv.legal s.ph).2)
  simp only [stepsLeft, hcnt, countUp_cfg, countUp_ph, countUp_bitidx, clearDone_cfg, clearDone_ph, clearDone_bitidx]
  omega

/-- Each move of a bounded call before FINISH leaves less to do, and the call goes on. -/
theorem PhaseMove.stepsLeft_lt (hm : PhaseMove s u) (hinv : s.Inv) (hb : s.cfg.bounded = true) (hi : s.ph ≠ .idle)
    (hf : s.ph ≠ .finish) : stepsLeft u < stepsLeft s ∧ u.ph ≠ .idle := by
  have hlt := hinv.cnt_lt
  cases hm with
  | ignored hph _ => exact absurd hph hi
  | accepted q hph _ _ _ => exact absurd hph hi
  | finished hph => exact absurd hph hf
  | released hph _ _ =>
    refine ⟨stepsLeft_lt_of_enter hlt rfl rfl ?_, by simp⟩
    simp only [enterPhase_ph, enterPhase_bitidx, lineDrive_bitidx, clearDone_bitidx, hph, stepsAfter, cntBound]
    omega
  | settled hph _ =>
    refine ⟨stepsLeft_lt_of_enter hlt rfl rfl ?_, by simp⟩
    simp only [enterPhase_ph, enterPhase_bitidx, clearDone_bitidx, hph, stepsAfter, cntBound, hb, if_true]
    omega
  | counted _ hc => exact ⟨stepsLeft_countUp_lt hinv (by omega), hi⟩
  | missed hw _ _ _ hc => exact ⟨stepsLeft_countUp_lt hinv (by simpa [hw.cntBound_eq, hb] using hc), hi⟩
  | stayed _ _ _ hu => exact absurd (hb.symm.trans hu) (by decide)
  | observed hw _ _ => exact ⟨stepsLeft_lt_of_enter hlt rfl rfl (hw.stepsAfter_next hb _), hw.next_ne_idle⟩
  | timedOut hw _ _ _ _ =>
    exact ⟨stepsLeft_lt_of_enter hlt (by simp) rfl (by simpa using hw.stepsAfter_next hb _), hw.next_ne_idle⟩
  | sampledLast hph _ _ hbit =>
    exact ⟨stepsLeft_lt_of_enter hlt rfl rfl (by simp [hph, hbit, stepsAfter, stepsAfterBit, cntBound]), by simp⟩
  | sampledMore hph _ _ hbit =>
    refine ⟨stepsLeft_lt_of_enter hlt rfl rfl ?_, by simp⟩
    simp only [enterPhase_ph, enterPhase_bitidx, toNat_bitidx_succ hbit, hph, stepsAfter, cntBound, hb, if_true]
    rw [stepsAfterBit_succ s.cfg hbit]
    omega

/-- A call in progress has less left than the longest call (R97). -/
theorem stepsLeft_lt_longestCall (s : State) (hb : s.cfg.bounded = true) : stepsLeft s < longestCall s.cfg := by
  have hbits := stepsAfterBit_le s.cfg s.bitidx.toNat
  simp only [stepsLeft, longestCall, stepsAfterBit] at hbits ⊢
  cases s.ph <;> simp only [stepsAfter, stepsAfterBit, cntBound, hb, if_true] <;> omega

/-- A bounded call ends within what is left of it. -/
theorem call_ends_within (n : Nat) (hinv : s.Inv) (hb : s.cfg.bounded = true) (hi : s.ph ≠ .idle)
    (hn : stepsLeft s ≤ n) (hr : NoReset s n) :
    ∃ k t, k ≤ n ∧ Runs k s t ∧ t.done = true ∧ t.busy = false ∧ t.ph = .idle := by
  induction n generalizing s with
  | zero =>
    have hlt := hinv.cnt_lt
    rw [stepsLeft] at hn
    omega
  | succ n ih =>
    have hr0 : (s.hostAt 0).rst = false := hr 0 (Nat.succ_pos n)
    by_cases hf : s.ph = .finish
    · exact ⟨1, _, by omega, runs_one (step_of_finish hr0 hf), rfl, rfl, rfl⟩
    · obtain ⟨u, hm, hst⟩ := step_goes_on hr0 hinv.pin_lt (Nat.lt_succ_of_le hinv.bitidx_le)
      obtain ⟨hless, hcall⟩ := hm.stepsLeft_lt hinv hb hi hf
      have hrun : Runs 1 s (advance u) := runs_one hst
      have hcfg : (advance u).cfg = s.cfg := (runs_inputs hrun).1
      have hless' : stepsLeft (advance u) ≤ n := Nat.le_of_lt_succ (hless.trans_le hn)
      obtain ⟨k, t, hk, hrun', hend⟩ := ih (stepKeepsInvariant s _ hinv hst) (hcfg ▸ hb) hcall hless'
        (noReset_of_runs hrun (noReset_mono hr (by omega)))
      exact ⟨1 + k, t, by omega, runs_add hrun hrun', hend⟩

end

/-- Settles O44: what is left of the call falls at every step, and is less than the longest call. -/
theorem everyCallEnds : Obligations.EveryCallEnds := by
  intro s hinv hb hi hr
  have hlong := stepsLeft_lt_longestCall s hb
  obtain ⟨k, t, hk, hrun, hdone, hbusy, hidle⟩ :=
    call_ends_within (stepsLeft s) hinv hb hi le_rfl (noReset_mono hr hlong.le)
  exact ⟨k, t, by omega, hrun, hdone, hbusy, hidle⟩

/-! ## A line that never moves (R96) -/

section
variable {c : Config} {L : Nat → Level} {b v v' : Level} {e : Nat}

/-- A wait that sees its level at once. -/
theorem waitEnd_of_seen (hc : c.Legal) (h : L e = v) : waitEnd c L v e = e :=
  waitEnd_eq (n := 0) hc.timeout_pos (fun _ hi => absurd hi (Nat.not_lt_zero _)) (.inl h)

/-- A wait whose samples all fail. -/
theorem waitEnd_of_missed (hc : c.Legal) (hmiss : ∀ i, i < c.tTimeout → L (e + i) ≠ v) :
    waitEnd c L v e + 1 = e + c.tTimeout ∧ waitTimesOut c L v e = true := by
  have hpos := hc.timeout_pos
  have hend : waitEnd c L v e = e + (c.tTimeout - 1) :=
    waitEnd_eq (by omega) (fun i hi => hmiss i (by omega)) (.inr (by omega))
  exact ⟨by omega, by simp [waitTimesOut, firstAt_eq_none hmiss]⟩

/-- Of two waits in a row for opposite levels one times out and the other takes one sample, whatever the level of a line
that does not move. -/
theorem waitEnd_pair_of_const (hc : c.Legal) (hne : v ≠ v') (hconst : ∀ k, k ≤ e + c.tTimeout → L k = b) :
    waitEnd c L v' (waitEnd c L v e + 1) = e + c.tTimeout ∧
    (waitTimesOut c L v e || waitTimesOut c L v' (waitEnd c L v e + 1)) = true := by
  by_cases hb : b = v
  · rw [waitEnd_of_seen hc ((hconst e (by omega)).trans hb)]
    obtain ⟨hend, hout⟩ := waitEnd_of_missed (L := L) (e := e + 1) (v := v') hc fun i hi => by
      rw [hconst _ (by omega), hb]; exact hne
    exact ⟨by omega, by rw [hout, Bool.or_true]⟩
  · obtain ⟨hend, hout⟩ := waitEnd_of_missed (L := L) (e := e) (v := v) hc fun i hi => by
      rwa [hconst _ (by omega)]
    have hb' : b = v' := (Bool.eq_not_iff.mpr hb).trans (Bool.eq_not_iff.mpr hne.symm).symm
    rw [hend, hout, waitEnd_of_seen hc ((hconst _ le_rfl).trans hb'), Bool.true_or]
    exact ⟨rfl, rfl⟩

/-- The step of FINISH on a line that never moves: 41 of the waits take `T_TIMEOUT` samples, the others one (R96). -/
def stuckFinishAt (c : Config) : Nat :=
  c.tStart + c.tSettle + c.tTimeout + 1 + 40 * (1 + c.tTimeout + c.tSample) + 1

/-- The `T_TIMEOUT + 1` samples of the two acknowledgement waits of a line that never moves. -/
theorem ack_of_const (hc : c.Legal) (hd : Claims.DefaultLevels c) (hconst : ∀ k, k ≤ stuckFinishAt c → L k = b) :
    ack2End c L 0 = ack1Start c 0 + c.tTimeout ∧ ackTimesOut c L 0 = true := by
  obtain ⟨hack1, hack2, -, -⟩ := hd
  refine waitEnd_pair_of_const hc (by simp [hack1, hack2]) fun k hk => hconst k ?_
  simp only [ack1Start, stuckFinishAt] at hk ⊢
  omega

/-- So for the two waits of a bit that begins before the last of them. -/
theorem bit_of_const (hc : c.Legal) (hd : Claims.DefaultLevels c) (hconst : ∀ k, k ≤ stuckFinishAt c → L k = b)
    {i : Nat} (hi : bitStart c L 0 i + c.tTimeout ≤ stuckFinishAt c) :
    bitFall c L 0 i = bitStart c L 0 i + c.tTimeout ∧
    (waitTimesOut c L c.bitw1Level (bitStart c L 0 i) ||
      waitTimesOut c L c.bitw2Level (bitHigh c L 0 i + 1)) = true := by
  obtain ⟨-, -, hbitw1, hbitw2⟩ := hd
  exact waitEnd_pair_of_const hc (by simp [hbitw1, hbitw2]) fun k hk => hconst k (hk.trans hi)

/-- The bits of a line that never moves all take the same time. -/
theorem bitStart_of_const (hc : c.Legal) (hd : Claims.DefaultLevels c) (hconst : ∀ k, k ≤ stuckFinishAt c → L k = b)
    {i : Nat} (hi : i < 40) :
    bitStart c L 0 i = ack1Start c 0 + c.tTimeout + 1 + i * (1 + c.tTimeout + c.tSample) := by
  induction i with
  | zero => simp only [bitStart, (ack_of_const hc hd hconst).1]; omega
  | succ i ih =>
    have hstart := ih (Nat.lt_of_succ_lt hi)
    have hbits : i * (1 + c.tTimeout + c.tSample) ≤ 39 * (1 + c.tTimeout + c.tSample) :=
      Nat.mul_le_mul_right _ (by omega)
    have hroom : bitStart c L 0 i + c.tTimeout ≤ stuckFinishAt c := by
      simp only [hstart, stuckFinishAt, ack1Start]; omega
    have hnext : bitStart c L 0 (i + 1) = bitFall c L 0 i + c.tSample + 1 := rfl
    rw [hnext, (bit_of_const hc hd hconst hroom).1, hstart, Nat.succ_mul]
    omega

/-- R96: the end of the capture on a line that never moves, and its two flags. -/
theorem capture_of_const (hc : c.Legal) (hd : Claims.DefaultLevels c) (hconst : ∀ k, k ≤ stuckFinishAt c → L k = b) :
    finishAt c L 0 = stuckFinishAt c ∧ bitTimesOut c L 0 = true ∧ ∀ i, i < 40 → L (bitSample c L 0 i) = b := by
  have hfirst : bitStart c L 0 0 = _ := bitStart_of_const hc hd hconst (by decide)
  have hlast : bitStart c L 0 39 = _ := bitStart_of_const hc hd hconst (by decide)
  have hroom0 : bitStart c L 0 0 + c.tTimeout ≤ stuckFinishAt c := by
    simp only [hfirst, stuckFinishAt, ack1Start]; omega
  have hroom39 : bitStart c L 0 39 + c.tTimeout ≤ stuckFinishAt c := by
    simp only [hlast, stuckFinishAt, ack1Start]; omega
  have hfinish : finishAt c L 0 = stuckFinishAt c := by
    rw [finishAt, bitSample, (bit_of_const hc hd hconst hroom39).1, hlast]
    simp only [stuckFinishAt, ack1Start]; omega
  refine ⟨hfinish, List.any_eq_true.mpr ⟨0, by simp, (bit_of_const hc hd hconst hroom0).2⟩, fun i hi => hconst _ ?_⟩
  rw [← hfinish]
  exact (bitSample_le hc L (by omega : i ≤ 39)).trans (Nat.le_succ _)

end

section
variable {s : State} {q : Quantity} {pin : PinNo} {b : Level}

/-- R96: the call on a line that never moves. FINISH executes on a frame of equal cells with both flags set, and its
effect is `Call` of the operand and of the pair before the call. -/
theorem call_of_const (hc : s.cfg.Legal) (hb : s.cfg.bounded = true) (hd : Claims.DefaultLevels s.cfg)
    (ha : Accepts s q pin) (hr : NoReset s (stuckFinishAt s.cfg + 1))
    (hconst : ∀ k, k ≤ stuckFinishAt s.cfg → levelFrom s pin k = b) :
    ∃ u, Runs (stuckFinishAt s.cfg) s u ∧ u.ph = .finish ∧ (∀ i, i < 40 → cell u.fb i = b) ∧
      u.ackTo = true ∧ u.bitTo = true ∧
      Runs (stuckFinishAt s.cfg + 1) s (advance (u.returned (call q u.fb s.lastH s.lastT))) := by
  obtain ⟨hfinish, hbits, hlevels⟩ := capture_of_const hc hd hconst
  have hacks := (ack_of_const hc hd hconst).2
  have hclosed := captureClosedForm s q pin hc hb ha
  simp only [hfinish, hbits, hacks] at hclosed
  obtain ⟨u, hrun, hf, hq, -, hcells, hack, hbit, hh, ht, -⟩ := hclosed (noReset_mono hr (Nat.le_succ _))
  have hr0 : (u.hostAt 0).rst = false := noReset_of_runs hrun hr 0 Nat.zero_lt_one
  refine ⟨u, hrun, hf, fun i hi => (hcells i hi).trans (hlevels i hi), hack, hbit, ?_⟩
  rw [← hq, ← hh, ← ht]
  exact runs_snoc hrun (step_of_finish hr0 hf)

end

/-- Settles O45: the all-ones frame is not valid, so `Call` leaves the pair and reports it. -/
theorem noSensorIsStale : Obligations.NoSensorIsStale := by
  intro s q pin hc hb hd ha n hr hhigh
  obtain ⟨u, hrun, hf, hcells, hack, hbit, hend⟩ := call_of_const hc hb hd ha hr hhigh
  have hinvalid : validate (frameBytes u.fb) = false := validate_of_cells_true hcells
  have hbad : ¬ Claims.ChecksumOk u.fb := by simp [← validate_iff, hinvalid]
  obtain ⟨hh, ht⟩ := call_pair_of_not_ok q s.lastH s.lastT hbad
  refine ⟨⟨u, hrun, hf, hcells⟩, _, hend, rfl, hh, ht, fun hhle htle => ?_, hinvalid, hack, hbit⟩
  have hresult := call_result_toNat q u.fb hhle htle
  rw [hh, ht, report_eq_reported] at hresult
  exact hresult

/-- Settles O46: the all-zero frame is valid, so `Call` forgets the pair and commits what it would from the pair 0. -/
theorem deadLineCommitsZeros : Obligations.DeadLineCommitsZeros := by
  intro s q pin hc hb hd ha n hr hlow
  obtain ⟨u, hrun, hf, hcells, hack, hbit, hend⟩ := call_of_const hc hb hd ha hr hlow
  have hvalid : validate (frameBytes u.fb) = true := validate_of_cells_false hcells
  rw [call_eq_of_ok q s.lastH s.lastT 0#12 0#12 ((validate_iff u.fb).mp hvalid)] at hend
  obtain ⟨hh, ht⟩ := call_pair_zero q (.inr hcells)
  refine ⟨⟨u, hrun, hf, hcells⟩, _, hend, rfl, hh, ht, ?_, hvalid, hack, hbit⟩
  have hresult := call_result_toNat q u.fb (h := 0#12) (t := 0#12) (by decide) (by decide)
  rw [hh, ht, report_eq_reported] at hresult
  exact hresult

end Sys2Proof.Machine
